-- ==== Sys2Proof/Word.lean ====
section
/-!
DEFINITION. The words of the PFC: bytes of the streams and buffers, the 16-bit and 32-bit header fields, and the
96-bit header register (spec/00_scope.md R8, spec/10_state.md R21). Every value is unsigned.
-/

namespace Sys2Proof

/-- One byte of a stream or buffer (R8). -/
abbrev Byte := BitVec 8

/-- The width of `payload_length` and `flags` (R5). -/
abbrev Half := BitVec 16

/-- The width of `sequence_number` and `acknowledgment_number` (R5). -/
abbrev Word := BitVec 32

/-- The width of RXHDR and TXHDR (R20): the header `{seq, ack, len, flags}` as one number. -/
abbrev HeaderBits := BitVec 96

end Sys2Proof
end

