-- ==== Sys2Proof/Config.lean ====
section
/-!
DEFINITION. The implementation parameters of spec/00_scope.md R5, and the values the spec leaves unspecified
(spec/93_implementation_defined.md part 2), each an opaque constant of which nothing can be proved.
-/

namespace Sys2Proof

/-- The three byte buffers of spec/10_state.md R30, the spaces of `MemRead` and `MemWrite` (R9). -/
inductive Space where
  | rxbuf
  | databuf
  | txbuf
deriving DecidableEq, Repr

namespace Config

/-- HEADER_SIZE (R5). -/
abbrev headerSize : Nat := 12

/-- MAX_PAYLOAD_SIZE (R5), also the number of cells of each buffer (R30). -/
abbrev maxPayload : Nat := 2048

/-- MAX_PACKET_SIZE (R5). -/
abbrev maxPacket : Nat := 2060

/-- F_DATA (R5, R73). -/
abbrev flagsData : Half := 0x0000#16

/-- F_FIN (R5, R73). -/
abbrev flagsFin : Half := 0x0001#16

/-- F_SYN (R5, R73). -/
abbrev flagsSyn : Half := 0x0002#16

/-- F_ACK (R5, R73). -/
abbrev flagsAck : Half := 0x0010#16

/-- F_FIN_ACK (R5, R73). -/
abbrev flagsFinAck : Half := 0x0011#16

/-- SYNACK_FLAGS (R5, R73), the spec's decision D2: the value of the SYN_ACK the block sends. DESIGN CHOICE (log
entry 12): the spec allows it to be a parameter and gives this default. -/
abbrev flagsSynAck : Half := 0x0012#16

/-- FREE VALUE (U6, R34; log entry 1): the byte in cell `index` of a buffer that nothing has written. -/
opaque powerUpByte : Space → Nat → Byte

/-- FREE VALUE (U6, R57; log entry 2): what `db_rdata` shows in cycle `tick` for an index at or above `data_len`. -/
opaque unspecifiedDbByte : Nat → Nat → Byte

/-- FREE VALUE (U7; log entry 3): whether a read of DATABUF in the very cycle of the DATA acceptance copy sees the
new cell. -/
opaque copyReadSeesNew : Nat → Bool

/-- FREE VALUE (U13, R32; log entry 4): `tx_data` in a cycle where `tx_valid` is 0. -/
opaque idleTxData : Nat → Byte

/-- FREE VALUE (U13; log entry 4): the 100 bits of the `log_*` ports in a cycle where `log_valid` is 0. -/
opaque idleLogPorts : Nat → BitVec 100

end Config
end Sys2Proof
end

