-- ==== Sys2Proof/Syntax.lean ====
section
/-!
DEFINITION. The syntax of the PFC: packet kinds (spec/30_encoding.md R74), headers and packet records
(spec/00_scope.md R10), and the instruction type, one constructor per row of spec/opcode_table.json.
-/

namespace Sys2Proof

/-- The packet kinds of R74. `unknown` is a delivered packet for which every predicate is false; `none` says that no
packet was delivered, or that none was expected. -/
inductive Kind where
  | unknown
  | syn
  | ack
  | data
  | fin
  | finAck
  | synAck
  | none
deriving DecidableEq, Repr

/-- The four header fields (R71). -/
structure Header where
  seq   : Word
  ack   : Word
  len   : Half
  flags : Half
deriving DecidableEq, Repr

/-- The packet record of R10: the four header fields and the payload, whose length is not forced to be `len`. -/
structure Packet extends Header where
  payload : List Byte
deriving DecidableEq, Repr

/-- The instructions: packets, by kind. The operands are the header's fields `seq`, `ack` and `len`
(opcode_table.json `source_fields`); `flags` is the opcode. The payload of a received packet is an operand in memory,
RXBUF[0 .. len-1] (R96, R136). -/
inductive Instr where
  /-- DATA, flags 0x0000 (R136). -/
  | data (seq ackNum : Word) (len : Half)
  /-- FIN, flags 0x0001 (R137). -/
  | fin (seq ackNum : Word) (len : Half)
  /-- SYN, flags 0x0002 (R133). -/
  | syn (seq ackNum : Word) (len : Half)
  /-- ACK, flags 0x0010 (R135). -/
  | ack (seq ackNum : Word) (len : Half)
  /-- FIN_ACK, flags 0x0011 (R138). -/
  | finAck (seq ackNum : Word) (len : Half)
  /-- SYN_ACK, flags 0x0012 (R134), transmit-only. -/
  | synAck (seq ackNum : Word) (len : Half)
deriving DecidableEq, Repr

/-- The header an instruction stands for: its operands with the flags value of its row (R73). -/
def Instr.header : Instr → Header
  | .data seq a len => ⟨seq, a, len, Config.flagsData⟩
  | .fin seq a len => ⟨seq, a, len, Config.flagsFin⟩
  | .syn seq a len => ⟨seq, a, len, Config.flagsSyn⟩
  | .ack seq a len => ⟨seq, a, len, Config.flagsAck⟩
  | .finAck seq a len => ⟨seq, a, len, Config.flagsFinAck⟩
  | .synAck seq a len => ⟨seq, a, len, Config.flagsSynAck⟩

end Sys2Proof
end

