-- ==== Sys2Proof/WellFormed.lean ====
section
/-!
DEFINITION. Which instructions and packet records are well formed: the `constraint` column of
spec/opcode_table.json (R83) and the definitions of spec/00_scope.md R10.
-/

namespace Sys2Proof

/-- The common constraint `len <= 2048` (R78, R83). -/
def lenLegal (len : Half) : Bool := decide (len.toNat ≤ Config.maxPayload)

/-- The constraint of the instruction's row: `len <= 2048`; DATA also `len != 0`; SYN_ACK `len = 0` (R73, R83). -/
def Instr.wf : Instr → Bool
  | .data _ _ len => lenLegal len && decide (len ≠ 0#16)
  | .fin _ _ len => lenLegal len
  | .syn _ _ len => lenLegal len
  | .ack _ _ len => lenLegal len
  | .finAck _ _ len => lenLegal len
  | .synAck _ _ len => decide (len = 0#16)

/-- The flags value is one of the five defined ones (R92 `DEFINED`); SYNACK_FLAGS is not among them (C2). -/
def definedFlags (f : Half) : Bool :=
  decide (f = Config.flagsData) || decide (f = Config.flagsFin) || decide (f = Config.flagsSyn) ||
    decide (f = Config.flagsAck) || decide (f = Config.flagsFinAck)

/-- A packet is well-formed when `len <= 2048` and `|payload| == len` (R10). -/
def Packet.wellFormed (p : Packet) : Bool :=
  lenLegal p.len && decide (p.payload.length = p.len.toNat)

/-- A packet is valid for round trip when it is well-formed and, if STRICT_FLAGS is 1, its flags are defined (R10). -/
def Packet.validForRoundTrip (strict : Bool) (p : Packet) : Bool :=
  p.wellFormed && (!strict || definedFlags p.flags)

end Sys2Proof
end

