-- ==== Sys2Proof/Decode.lean ====
section
/-!
DEFINITION. Header bytes and header words, the decoder, and the encoder (spec/30_encoding.md R71 to R73, R83;
spec/20_memory.md R51). The decoder reads a row of spec/opcode_table.json: `(H & mask) == match` and the row's
constraint. What a RECEIVED header does is the deserializer's and the state machine's (Machine/Des.lean,
Machine/Receive.lean): there 0x0012 is a value of no kind (R76).
-/

namespace Sys2Proof

/-! ## Byte order (R9, R51) -/

/-- `be16(b0, b1)`: `b0` is the high byte (R9). -/
def be16 (b0 b1 : Byte) : Half := b0 ++ b1

/-- `be32(b0, b1, b2, b3)`: `b0` is the high byte (R9). -/
def be32 (b0 b1 b2 b3 : Byte) : Word := ((b0 ++ b1 : BitVec 16) ++ b2 : BitVec 24) ++ b3

/-- `bytes_be16(v)` (R9). -/
def bytesBe16 (v : Half) : List Byte := [v.extractLsb' 8 8, v.extractLsb' 0 8]

/-- `bytes_be32(v)` (R9). -/
def bytesBe32 (v : Word) : List Byte :=
  [v.extractLsb' 24 8, v.extractLsb' 16 8, v.extractLsb' 8 8, v.extractLsb' 0 8]

/-! ## Header words (R71, R72) -/

/-- `{seq, ack, len, flags}` as the 96-bit number H, `seq` in the high bits (R71). -/
def Header.toBits (h : Header) : HeaderBits := ((h.seq ++ h.ack : BitVec 64) ++ h.len : BitVec 80) ++ h.flags

/-- The four fields of a 96-bit header: 95:64, 63:32, 31:16, 15:0 (R71). -/
def Header.ofBits (H : HeaderBits) : Header :=
  ⟨H.extractLsb' 64 32, H.extractLsb' 32 32, H.extractLsb' 16 16, H.extractLsb' 0 16⟩

/-- The twelve stream bytes of a header (R72). -/
def Header.bytes (h : Header) : List Byte :=
  bytesBe32 h.seq ++ bytesBe32 h.ack ++ bytesBe16 h.len ++ bytesBe16 h.flags

/-- Stream byte `i` of a header register: bits `95-8*i : 88-8*i` (R23, R32). -/
def headerByte (H : HeaderBits) (i : Nat) : Byte := H.extractLsb' (88 - 8 * i) 8

/-- `{H[87:0], b}`: a header byte shifted in (R22). -/
def shiftIn (H : HeaderBits) (b : Byte) : HeaderBits := H.extractLsb' 0 88 ++ b

/-! ## The decoder -/

/-- Why no row of the opcode table is the header's. -/
inductive DecodeError where
  /-- Fewer than twelve bytes: there is no header. -/
  | headerIncomplete
  /-- `len > 2048`, against the constraint of every row (R78, R83). -/
  | lengthOverLimit
  /-- `flags` is the value of no row (R73). -/
  | undefinedFlags
  /-- `flags == 0x0000` with `len == 0`: not DATA, and no other kind (R119, C1). -/
  | dataWithoutPayload
  /-- `flags == 0x0012` with a payload: the SYN_ACK row has `len = 0`. -/
  | synAckWithPayload
deriving DecidableEq, Repr

/-- The row of the opcode table a header belongs to, with its operands (R73, R83). The 16-bit `flags` is compared
whole (R72, R123). -/
def decodeFields (h : Header) : Except DecodeError Instr :=
  if lenLegal h.len = false then .error .lengthOverLimit
  else if h.flags = Config.flagsData then
    if h.len = 0#16 then .error .dataWithoutPayload else .ok (.data h.seq h.ack h.len)
  else if h.flags = Config.flagsFin then .ok (.fin h.seq h.ack h.len)
  else if h.flags = Config.flagsSyn then .ok (.syn h.seq h.ack h.len)
  else if h.flags = Config.flagsAck then .ok (.ack h.seq h.ack h.len)
  else if h.flags = Config.flagsFinAck then .ok (.finAck h.seq h.ack h.len)
  else if h.flags = Config.flagsSynAck then
    if h.len = 0#16 then .ok (.synAck h.seq h.ack h.len) else .error .synAckWithPayload
  else .error .undefinedFlags

/-- The decoder on a header register. -/
def decodeHeader (H : HeaderBits) : Except DecodeError Instr := decodeFields (Header.ofBits H)

/-- The first twelve bytes as a header, with the bytes that follow (R72, R79). -/
def headerOfBytes : List Byte → Option (Header × List Byte)
  | b0 :: b1 :: b2 :: b3 :: b4 :: b5 :: b6 :: b7 :: b8 :: b9 :: b10 :: b11 :: rest =>
    some (⟨be32 b0 b1 b2 b3, be32 b4 b5 b6 b7, be16 b8 b9, be16 b10 b11⟩, rest)
  | _ => none

/-- The decoder on stream bytes, total: the instruction whose header they begin with, and the bytes after the header
(the payload, then the next packet; R79). -/
def decode (bs : List Byte) : Except DecodeError (Instr × List Byte) :=
  match headerOfBytes bs with
  | none => .error .headerIncomplete
  | some (h, rest) =>
    match decodeFields h with
    | .error e => .error e
    | .ok i => .ok (i, rest)

/-! ## The encoder -/

/-- The header word of an instruction (R71). -/
def encodeHeader (i : Instr) : HeaderBits := i.header.toBits

/-- The twelve header bytes of an instruction in stream order (R72). -/
def encode (i : Instr) : List Byte := i.header.bytes

/-- The twelve stream bytes of a header register, byte 0 first (R23). -/
def headerBitsBytes (H : HeaderBits) : List Byte := (List.range Config.headerSize).map (headerByte H)

/-- The header whose bits are `w`, numbered as spec/opcode_table.json numbers them: bit 0 is bit 0 of H, the least
significant bit of the last header byte (R71, R83). Bits at and above `nbits` are 0. -/
def tableHeader (nbits w : Nat) : HeaderBits := BitVec.ofNat 96 (w % 2 ^ nbits)

/-- The instruction the decoder reads from the table word `w`: its twelve bytes laid out in stream order, followed by
a payload of zeros. -/
def decodeTableWord (nbits w : Nat) : Option Instr :=
  let H := tableHeader nbits w
  match decode (headerBitsBytes H ++ List.replicate (Header.ofBits H).len.toNat 0#8) with
  | .ok (i, _) => some i
  | .error _ => none

end Sys2Proof
end

