-- ==== Sys2Proof/Machine/State.lean ====
section
/-!
DEFINITION. The machine's state as plain data (spec/10_state.md), the reasons a step of the model can stop, and the
state after reset.
-/

namespace Sys2Proof.Machine

/-- The nine values of STATE (R24). Codes 9 to 15 are written by no rule (U12) and have no value here. -/
inductive FsmState where
  | idle
  | listening
  | synReceived
  | synAckSent
  | established
  | dataReceived
  | finSent
  | closed
  | failed
deriving DecidableEq, Repr

/-- The error codes of R180. -/
inductive ErrCode where
  | none
  | encodingError
  | truncatedStream
  | unexpectedPacketKind
  | invalidFlags
  | lengthError
deriving DecidableEq, Repr

/-- ERR, the failure record (R28). -/
structure ErrRecord where
  code  : ErrCode
  state : FsmState
  exp   : Kind
  act   : Kind
deriving DecidableEq, Repr

/-- ERR all zeros: NONE, and the codes 0 of STATE (IDLE) and of the kinds (UNKNOWN) (R28, R34). -/
def ErrRecord.clear : ErrRecord := ⟨.none, .idle, .unknown, .unknown⟩

/-- A log event (R65). `sent` is `dir`: false is 0, received; true is 1, sent. -/
structure LogEvent where
  sent  : Bool
  kind  : Kind
  seq   : Word
  ack   : Word
  len   : Half
  flags : Half
deriving DecidableEq, Repr

/-- The output events the model records as a trace (R35): a log event or a close pulse. -/
inductive OutEvent where
  | log (e : LogEvent)
  | epClose
deriving DecidableEq, Repr

/-- The input ports' levels in the present cycle (R31), as the step sampled them. `rx_data` is not kept: it is the first
of the bytes the transport held. -/
structure Pins where
  rxValid   : Bool
  rst       : Bool
  start     : Bool
  cfgStrict : Bool
  cfgIss    : Word
  rxEos     : Bool
  txReady   : Bool
  txErr     : Bool
  dbAddr    : BitVec 11
deriving DecidableEq, Repr

/-- All input ports at 0. -/
def Pins.zero : Pins := ⟨false, false, false, false, 0#32, false, false, false, 0#11⟩

/-- What the environment (agents 2, 3 and 4 of R7) does before and in one clock cycle: `connect` gives the block a
fresh endpoint (R212), `arrive` are bytes of the peer that reach the transport, `rxEos` and `txErr` raise those levels,
and the rest drive the ports of R31. -/
structure Cycle where
  connect   : Bool
  arrive    : List Byte
  rst       : Bool
  start     : Bool
  cfgStrict : Bool
  cfgIss    : Word
  rxEos     : Bool
  txReady   : Bool
  txErr     : Bool
  dbAddr    : BitVec 11
deriving DecidableEq, Repr

/-- A cycle in which the environment does nothing. -/
def Cycle.quiet : Cycle := ⟨false, [], false, false, false, 0#32, false, false, false, 0#11⟩

/-- A byte buffer (R30): the cells that have been written, by index. An index that is not listed has no value of its
own: its byte is unspecified (R34, U6; log entry 1). -/
abbrev Memory := List Host.Cell

/-- Why the model stops with a fault. Both are safe: no run reaches them from a state that meets `Safety.Inv`. -/
inductive Fault where
  /-- Raised by `memRead`, `memWrite` and the DATABUF copy: the cell does not exist, a buffer having the indices 0 to
  2047 (R30, R50). Safe: the block would have to break R94's bound first. -/
  | noSuchCell (sp : Space) (index : Nat)
  /-- Raised by the deserializer: a byte is taken with byte counters for which neither R93 nor R95 holds, which R25
  says does not happen. Safe. -/
  | countersOutOfRange
deriving DecidableEq, Repr

/-- Why the model gives a step no meaning. -/
inductive Refusal where
  /-- Raised by `exec` for an instruction without a meaning: none is left. -/
  | notModelled (mnemonic : String)
  /-- Raised by `beginCycle`: the environment offers a byte after the end of the RX stream, against R214 (c); U14 says
  `refuse`. Safe. -/
  | byteAfterEndOfStream
  /-- Raised by `beginCycle`: the host connects another endpoint while `busy` is 1, against R213 and R214 (f); U14 says
  `refuse`. Safe. -/
  | endpointChangedWhileBusy
deriving DecidableEq, Repr

/-- The state of the machine: the block's state of R20 and R34, and the environment state R33 and R35 ask the model to
carry. `script` and `tick` are the model's own (log entries 6 and 2). -/
structure State where
  /-- STATE, the program counter (R24). -/
  state     : FsmState
  /-- RXHDR (R22). -/
  rxhdr     : HeaderBits
  /-- TXHDR (R23). -/
  txhdr     : HeaderBits
  /-- RXHCNT (R25). -/
  rxhcnt    : BitVec 4
  /-- RXPCNT (R25). -/
  rxpcnt    : BitVec 12
  /-- TXCNT (R25). -/
  txcnt     : BitVec 12
  /-- ACKM (R26). -/
  ackm      : Bool
  /-- CFG.STRICT (R27). -/
  cfgStrict : Bool
  /-- CFG.ISS (R27). -/
  cfgIss    : Word
  /-- ERR (R28). -/
  err       : ErrRecord
  /-- IRS (R29). -/
  irs       : Word
  /-- PNX (R29). -/
  pnx       : Word
  /-- DATA_LEN (R29). -/
  dataLen   : Half
  /-- RXBUF (R30). -/
  rxbuf     : Memory
  /-- DATABUF (R30). -/
  databuf   : Memory
  /-- TXBUF, at the SER unit's boundary only (R30). -/
  txbuf     : Memory
  /-- TXPLEN, at the SER unit's boundary only; constant 0 in the integrated block (R30). -/
  txplen    : Half
  /-- `ep_close` as the latest step left it (R31, R34). -/
  epClosePulse : Bool
  /-- `log_valid` and the `log_*` ports as the latest step left them (R31, R34). -/
  logPulse  : Option LogEvent
  /-- The remaining RX input sequence: bytes the transport holds, next first (R33). -/
  rxIn      : List Byte
  /-- The accumulated TX output sequence, oldest first (R33). -/
  txOut     : List Byte
  /-- The log and close events emitted so far, oldest first (R35). -/
  trace     : List OutEvent
  /-- The input ports in the present cycle (R31). -/
  pins      : Pins
  /-- The model's own: what the environment does in the coming cycles. -/
  script    : List Cycle
  /-- The model's own: a count of cycles, read by nothing but the free values. -/
  tick      : Nat
deriving DecidableEq, Repr

/-- The machine right after reset (R34, R210): STATE is IDLE, every register 0, no buffer cell specified, nothing
emitted, and an environment that has done nothing (log entry 6). -/
def State.reset : State where
  state := .idle
  rxhdr := 0#96
  txhdr := 0#96
  rxhcnt := 0#4
  rxpcnt := 0#12
  txcnt := 0#12
  ackm := false
  cfgStrict := false
  cfgIss := 0#32
  err := .clear
  irs := 0#32
  pnx := 0#32
  dataLen := 0#16
  rxbuf := []
  databuf := []
  txbuf := []
  txplen := 0#16
  epClosePulse := false
  logPulse := none
  rxIn := []
  txOut := []
  trace := []
  pins := .zero
  script := []
  tick := 0

end Sys2Proof.Machine
end

