-- ==== Sys2Proof/Machine/Ops.lean ====
section
/-!
DEFINITION. The named operations: byte buffers, the primitives `MemRead` and `MemWrite` (spec/00_scope.md R9), the
events `emit Log` and `emit EpClose`, and the abort sequence FAIL (spec/60_exceptions.md R187), the one way an error
is taken. There is no return from it (R189): FAILED is left by `start` or reset only (Machine/Driver.lean).
-/

namespace Sys2Proof.Machine

/-- The outcome of a step of this machine. -/
abbrev Outcome := Host.Outcome State Fault Refusal

/-! ## Byte buffers (R30, R50) -/

/-- The byte in a cell, if something has written it. -/
def Memory.read? : Memory → Nat → Option Byte
  | [], _ => none
  | (c, d) :: m, a => if c = a then some d else Memory.read? m a

/-- A byte written to a cell; the list stays in rising order of the index. -/
def Memory.write : Memory → Nat → Byte → Memory
  | [], a, b => [(a, b)]
  | (c, d) :: m, a, b =>
    if a < c then (a, b) :: (c, d) :: m
    else if c = a then (a, b) :: m
    else (c, d) :: Memory.write m a b

/-- The cells of `dst` at and above `n` with the cells of `src` below `n`: the copy of R57. A cell of `src` that
nothing has written leaves its cell of the result unspecified. -/
def Memory.copyLow (n : Nat) (src dst : Memory) : Memory :=
  src.filter (fun c => decide (c.1 < n)) ++ dst.filter (fun c => decide (n ≤ c.1))

/-- Every index above `lo` and the indices strictly rising. -/
def Memory.risesFrom : Nat → Memory → Bool
  | _, [] => true
  | lo, (c, _) :: m => decide (lo ≤ c) && Memory.risesFrom (c + 1) m

/-- The canonical form of a buffer: strictly rising indices, each below 2048. An unlisted cell reads as no value, which
no entry equals. -/
def Memory.wf (m : Memory) : Bool :=
  Memory.risesFrom 0 m && m.all (fun c => decide (c.1 < Config.maxPayload))

/-- The buffer of a space (R30). -/
def State.mem (s : State) : Space → Memory
  | .rxbuf => s.rxbuf
  | .databuf => s.databuf
  | .txbuf => s.txbuf

/-- The state with another buffer in a space. -/
def State.setMem (s : State) (sp : Space) (m : Memory) : State :=
  match sp with
  | .rxbuf => { s with rxbuf := m }
  | .databuf => { s with databuf := m }
  | .txbuf => { s with txbuf := m }

/-- The byte a cell holds: what was written to it, else an unspecified byte (R34, U6; log entry 1). -/
def cellByte (sp : Space) (index : Nat) (s : State) : Byte :=
  ((s.mem sp).read? index).getD (Config.powerUpByte sp index)

/-- `MemRead(space, addr, 1)` (R9). -/
def memReadByte (sp : Space) (index : Nat) (s : State) : Except Fault Byte :=
  if index < Config.maxPayload then .ok (cellByte sp index s) else .error (.noSuchCell sp index)

/-- `MemRead(space, addr, n)`: the bytes at indices `addr` to `addr+n-1` (R9). -/
def memRead (sp : Space) (addr : Nat) : Nat → State → Except Fault (List Byte)
  | 0, _ => .ok []
  | n + 1, s =>
    match memReadByte sp addr s with
    | .error f => .error f
    | .ok b =>
      match memRead sp (addr + 1) n s with
      | .error f => .error f
      | .ok bs => .ok (b :: bs)

/-- `MemWrite(space, addr, 1, v)` (R9). -/
def memWriteByte (sp : Space) (index : Nat) (v : Byte) (s : State) : Except Fault State :=
  if index < Config.maxPayload then .ok (s.setMem sp ((s.mem sp).write index v)) else .error (.noSuchCell sp index)

/-- `MemWrite(space, addr, n, v)` with `n = |v|` (R9). -/
def memWrite (sp : Space) (addr : Nat) : List Byte → State → Except Fault State
  | [], s => .ok s
  | b :: bs, s =>
    match memWriteByte sp addr b s with
    | .error f => .error f
    | .ok s1 => memWrite sp (addr + 1) bs s1

/-- `for i in 0 .. n-1: DATABUF[i] <- RXBUF[i]`, all in one step (R57, R136). -/
def copyPayload (n : Nat) (s : State) : Except Fault State :=
  if n ≤ Config.maxPayload then .ok { s with databuf := Memory.copyLow n s.rxbuf s.databuf }
  else .error (.noSuchCell .rxbuf Config.maxPayload)

/-- Bytes laid out from index `i` on. -/
def cellsFrom : Nat → List Byte → Memory
  | _, [] => []
  | i, b :: bs => (i, b) :: cellsFrom (i + 1) bs

/-! ## Events (R9, R65, R162) -/

/-- `emit Log(...)`: shown on the log ports in this step, and appended to the trace (R65). -/
def emitLog (e : LogEvent) (s : State) : State :=
  { s with logPulse := some e, trace := s.trace ++ [.log e] }

/-- `emit EpClose`: one pulse of `ep_close` (R162). -/
def emitEpClose (s : State) : State :=
  { s with epClosePulse := true, trace := s.trace ++ [.epClose] }

/-! ## Taking an exception -/

/-- `FAIL(code, exp, act)` (R187): ERR records the error and the state it happened in, STATE becomes FAILED, and the
endpoint is closed. Nothing else changes. -/
def fail (code : ErrCode) (exp act : Kind) (s : State) : State :=
  emitEpClose { s with err := ⟨code, s.state, exp, act⟩, state := .failed }

end Sys2Proof.Machine
end

