-- ==== Sys2Proof/Machine/Operands.lean ====
section
/-!
DEFINITION. The operand forms: the eight header registers x[0] to x[7] by name and number (spec/10_state.md R21), the
header fields as operands, and the three ways a step reaches its data (spec/20_memory.md R66).
-/

namespace Sys2Proof.Machine

/-- The eight header registers (R21). -/
inductive HeaderReg where
  | rxhSeq
  | rxhAck
  | rxhLen
  | rxhFlags
  | txhSeq
  | txhAck
  | txhLen
  | txhFlags
deriving DecidableEq, Repr

/-- The register's number in the `x[i]` notation (R21). -/
def HeaderReg.number : HeaderReg → Nat
  | .rxhSeq => 0
  | .rxhAck => 1
  | .rxhLen => 2
  | .rxhFlags => 3
  | .txhSeq => 4
  | .txhAck => 5
  | .txhLen => 6
  | .txhFlags => 7

/-- The four fields of RXHDR, as they stand (R21). -/
def rxHeader (s : State) : Header := Header.ofBits s.rxhdr

/-- The four fields of TXHDR (R21). -/
def txHeader (s : State) : Header := Header.ofBits s.txhdr

/-- `x[i]` read: the register's value, the 16-bit ones widened with zeros (R9 `zext`, R21). -/
def readX : HeaderReg → State → Word
  | .rxhSeq, s => (rxHeader s).seq
  | .rxhAck, s => (rxHeader s).ack
  | .rxhLen, s => (rxHeader s).len.setWidth 32
  | .rxhFlags, s => (rxHeader s).flags.setWidth 32
  | .txhSeq, s => (txHeader s).seq
  | .txhAck, s => (txHeader s).ack
  | .txhLen, s => (txHeader s).len.setWidth 32
  | .txhFlags, s => (txHeader s).flags.setWidth 32

/-- RXHDR with its four fields replaced (R21). -/
def setRxHeader (h : Header) (s : State) : State := { s with rxhdr := h.toBits }

/-- TXHDR loaded as a whole, `TXHDR <- {seq, ack, len, flags}` (R23). -/
def setTxHeader (h : Header) (s : State) : State := { s with txhdr := h.toBits }

/-- `x[i] <- v`: the field written, the other fields of its header register kept (R9, R21). A 16-bit field takes the
low 16 bits. -/
def writeX (r : HeaderReg) (v : Word) (s : State) : State :=
  let rx := rxHeader s
  let tx := txHeader s
  match r with
  | .rxhSeq => setRxHeader { rx with seq := v } s
  | .rxhAck => setRxHeader { rx with ack := v } s
  | .rxhLen => setRxHeader { rx with len := v.setWidth 16 } s
  | .rxhFlags => setRxHeader { rx with flags := v.setWidth 16 } s
  | .txhSeq => setTxHeader { tx with seq := v } s
  | .txhAck => setTxHeader { tx with ack := v } s
  | .txhLen => setTxHeader { tx with len := v.setWidth 16 } s
  | .txhFlags => setTxHeader { tx with flags := v.setWidth 16 } s

/-- RXH.LEN as a number (R21). -/
def rxLen (s : State) : Nat := (rxHeader s).len.toNat

/-- TXH.LEN as a number (R21). -/
def txLen (s : State) : Nat := (txHeader s).len.toNat

/-- Stream-sequential access (R66 a): the next byte of the RX stream leaves the transport when it is taken (R53). -/
def takeRx (s : State) : State := { s with rxIn := s.rxIn.tail }

/-- Stream-sequential access (R66 a): an accepted byte is appended to the TX stream (R50, R55). -/
def appendTx (b : Byte) (s : State) : State := { s with txOut := s.txOut ++ [b] }

/-- Counter-indexed access (R66 b): `RXBUF[RXPCNT] <- b` (R56). -/
def storePayloadByte (b : Byte) (s : State) : Except Fault State :=
  memWriteByte .rxbuf s.rxpcnt.toNat b s

/-- The byte the serializer offers: TXHDR byte TXCNT while TXCNT is below 12, else `TXBUF[TXCNT-12]` (R32, R66 b). -/
def txByte (s : State) : Except Fault Byte :=
  if s.txcnt.toNat < Config.headerSize then .ok (headerByte s.txhdr s.txcnt.toNat)
  else memReadByte .txbuf (s.txcnt.toNat - Config.headerSize) s

/-- Host-indexed access (R66 c): `DATABUF[db_addr]`. The byte is the recorded one below `data_len`; at and above it the
cell is unspecified (R57, U6; log entry 2). -/
def dbRead (addr : BitVec 11) (s : State) : Byte :=
  if addr.toNat < s.dataLen.toNat then cellByte .databuf addr.toNat s
  else Config.unspecifiedDbByte s.tick addr.toNat

/-- The packet in RXHDR and RXBUF: `payload = RXBUF[0 .. RXH.LEN-1]` (R96). -/
def rxPacket (s : State) : Packet :=
  { rxHeader s with payload := (List.range (rxLen s)).map (fun i => cellByte .rxbuf i s) }

end Sys2Proof.Machine
end

