-- ==== Sys2Proof/Machine/Flags.lean ====
section
/-!
DEFINITION. Flags and predicates: the flags that are functions of STATE (spec/10_state.md R26, R32), the classes of
STATE and the expected kinds (spec/42_fsm.md R130), the classification predicates and CLASSIFY
(spec/41_codec_helpers.md R116 to R121), and the computation of ACKM (R135).
-/

namespace Sys2Proof.Machine

/-! ## Classes of STATE (R130) -/

/-- EXP(S): the kind a receive state expects; `none` in a state that is not a receive state (R130). -/
def FsmState.expects : FsmState → Option Kind
  | .listening => some .syn
  | .synAckSent => some .ack
  | .established => some .data
  | .finSent => some .finAck
  | .idle => none
  | .synReceived => none
  | .dataReceived => none
  | .closed => none
  | .failed => none

/-- The receive states (R130). -/
def FsmState.isReceive (st : FsmState) : Bool := st.expects.isSome

/-- The send states (R130). -/
def FsmState.isSend : FsmState → Bool
  | .synReceived => true
  | .dataReceived => true
  | .idle => false
  | .listening => false
  | .synAckSent => false
  | .established => false
  | .finSent => false
  | .closed => false
  | .failed => false

/-- `done`: STATE is CLOSED or FAILED (R26). -/
def FsmState.isDone : FsmState → Bool
  | .closed => true
  | .failed => true
  | .idle => false
  | .listening => false
  | .synReceived => false
  | .synAckSent => false
  | .established => false
  | .dataReceived => false
  | .finSent => false

/-- `busy`: STATE is one of the six states from LISTENING to FIN_SENT (R26). -/
def FsmState.isBusy (st : FsmState) : Bool := st.isReceive || st.isSend

/-- `busy` (R26). -/
def busy (s : State) : Bool := s.state.isBusy

/-- `done` (R26). -/
def done (s : State) : Bool := s.state.isDone

/-- `ok`: STATE is CLOSED (R26). -/
def ok (s : State) : Bool := decide (s.state = .closed)

/-- `start_ready = !busy` (R32). -/
def startReady (s : State) : Bool := !busy s

/-- `rx_ready` (R32). -/
def rxReady (s : State) : Bool := s.state.isReceive

/-- `tx_valid` (R32). -/
def txValid (s : State) : Bool := s.state.isSend

/-! ## Classification (R116 to R121) -/

/-- IS_SYN (R116). -/
def isSyn (h : Header) : Bool := decide (h.flags = Config.flagsSyn)

/-- IS_ACK (R117). -/
def isAck (h : Header) : Bool := decide (h.flags = Config.flagsAck)

/-- IS_FIN (R118). -/
def isFin (h : Header) : Bool := decide (h.flags = Config.flagsFin)

/-- IS_DATA (R119): also `len > 0`. -/
def isData (h : Header) : Bool := decide (h.flags = Config.flagsData) && decide (0 < h.len.toNat)

/-- IS_FIN_ACK (R120). -/
def isFinAck (h : Header) : Bool := decide (h.flags = Config.flagsFinAck)

/-- CLASSIFY (R121). -/
def classify (h : Header) : Kind :=
  if isSyn h then .syn
  else if isAck h then .ack
  else if isFin h then .fin
  else if isFinAck h then .finAck
  else if isData h then .data
  else .unknown

/-! ## The stored flag (R26, R135, R141) -/

/-- `(v + 1) mod 2^32` (R141 a). -/
def plusOne (v : Word) : Word := v + 1#32

/-- The value the ACK acceptance gives ACKM: `p.ack == (CFG.ISS + 1) mod 2^32` (R135). -/
def ackMatches (iss ackNum : Word) : Bool := decide (ackNum = plusOne iss)

end Sys2Proof.Machine
end

