-- ==== Sys2Proof/Machine/Codec.lean ====
section
/-!
DEFINITION. The Packet Codec as pure functions: ENCODE (spec/40_codec_serdes.md R90), DECODE (R92) and the construction
helpers (spec/41_codec_helpers.md R110 to R115). The predicates and CLASSIFY stand in Machine/Flags.lean; the
byte-serial forms in Machine/Ser.lean and Machine/Des.lean.
-/

namespace Sys2Proof.Machine

/-- ENCODE(p) (R90). `flags` is not looked at (D30). -/
def encodePacket (p : Packet) : Except ErrCode (List Byte) :=
  if lenLegal p.len = false then .error .encodingError
  else if p.payload.length ≠ p.len.toNat then .error .encodingError
  else .ok (p.toHeader.bytes ++ p.payload)

/-- What DECODE answers (R92). -/
inductive DecodeResult where
  /-- `Ok(p, rest)`. -/
  | ok (p : Packet) (rest : List Byte)
  /-- One of the errors: truncatedStream, lengthError, invalidFlags. -/
  | error (e : ErrCode)
  /-- `Blocked`: the operation never returns. -/
  | blocked
deriving DecidableEq, Repr

/-- DECODE where the bytes on offer run out: TruncatedStreamError if an `Eos` follows, else Blocked (R92). -/
def decodeShort (eos : Bool) : DecodeResult := if eos then .error .truncatedStream else .blocked

/-- DECODE(s, eos, strict) (R92). -/
def decodePacket (bytes : List Byte) (eos strict : Bool) : DecodeResult :=
  match headerOfBytes bytes with
  | none => decodeShort eos
  | some (h, body) =>
    if lenLegal h.len = false then .error .lengthError
    else if strict && !definedFlags h.flags then .error .invalidFlags
    else if body.length < h.len.toNat then decodeShort eos
    else .ok { h with payload := body.take h.len.toNat } (body.drop h.len.toNat)

/-! ## Construction helpers -/

/-- MK_SYN (R110). -/
def mkSyn (s a : Word) : Packet := ⟨⟨s, a, 0#16, Config.flagsSyn⟩, []⟩

/-- MK_ACK (R111). -/
def mkAck (s a : Word) : Packet := ⟨⟨s, a, 0#16, Config.flagsAck⟩, []⟩

/-- MK_FIN (R112). -/
def mkFin (s a : Word) : Packet := ⟨⟨s, a, 0#16, Config.flagsFin⟩, []⟩

/-- MK_FIN_ACK (R113). -/
def mkFinAck (s a : Word) : Packet := ⟨⟨s, a, 0#16, Config.flagsFinAck⟩, []⟩

/-- MK_DATA (R114): EncodingError when no 16-bit `payload_length` equals the payload's length (D25). -/
def mkData (s a : Word) (p : List Byte) : Except ErrCode Packet :=
  if 65535 < p.length then .error .encodingError
  else .ok ⟨⟨s, a, BitVec.ofNat 16 p.length, Config.flagsData⟩, p⟩

/-- MK_SYN_ACK (R115). -/
def mkSynAck (s a : Word) : Packet := ⟨⟨s, a, 0#16, Config.flagsSynAck⟩, []⟩

end Sys2Proof.Machine
end

