-- ==== Sys2Proof/Machine/Des.lean ====
section
/-!
DEFINITION. DES, the byte-serial deserializer (spec/40_codec_serdes.md R93 to R97), one stream byte at a time. It says
what a byte does to the receive registers and whether the packet is complete or an error is raised; what delivery and
an error do is the state machine's (Machine/Receive.lean), or, for the codec taken alone, the operation's result
(`desRun`, R100).
-/

namespace Sys2Proof.Machine

/-- What taking one byte leads to. -/
inductive DesResult where
  /-- The byte is taken and the packet is not complete. -/
  | more (s : State)
  /-- The byte completes the packet: it is delivered (R96). -/
  | complete (s : State)
  /-- The byte completes a header that is refused (R94). -/
  | raised (e : ErrCode) (s : State)
  /-- The model stops. -/
  | fault (f : Fault)
deriving DecidableEq, Repr

/-- Packet completion: the byte counters are cleared; RXHDR and RXBUF keep the packet (R96). -/
def packetComplete (s : State) : State := { s with rxhcnt := 0#4, rxpcnt := 0#12 }

/-- Header completion, in the step that takes the twelfth header byte (R94): the length is checked first, then, if
CFG.STRICT, the flags (R186). -/
def headerComplete (s : State) : DesResult :=
  if Config.maxPayload < rxLen s then .raised .lengthError s
  else if s.cfgStrict && !definedFlags (rxHeader s).flags then .raised .invalidFlags s
  else if rxLen s = 0 then .complete (packetComplete s)
  else .more { s with rxpcnt := 0#12 }

/-- A byte in the header phase (R93). -/
def desHeaderByte (b : Byte) (s : State) : DesResult :=
  let s1 := { s with rxhdr := shiftIn s.rxhdr b, rxhcnt := s.rxhcnt + 1#4 }
  if s1.rxhcnt = 12#4 then headerComplete s1 else .more s1

/-- A byte in the payload phase (R95). -/
def desPayloadByte (b : Byte) (s : State) : DesResult :=
  match storePayloadByte b s with
  | .error f => .fault f
  | .ok s1 =>
    let s2 := { s1 with rxpcnt := s1.rxpcnt + 1#12 }
    if s2.rxpcnt.toNat = rxLen s2 then .complete (packetComplete s2) else .more s2

/-- RX event `Byte(b)` (R93, R95). -/
def desByte (b : Byte) (s : State) : DesResult :=
  if s.rxhcnt.toNat < Config.headerSize then desHeaderByte b s
  else if s.rxhcnt = 12#4 ∧ s.rxpcnt.toNat < rxLen s then desPayloadByte b s
  else .fault .countersOutOfRange

/-! ## The codec taken alone (R96, R100) -/

/-- How a DECODE by the DES ends on a given stream. -/
inductive DesRun where
  /-- The packet is delivered; `rest` has not been taken. -/
  | delivered (s : State) (rest : List Byte)
  /-- The error is raised; `rest` has not been taken. -/
  | raised (e : ErrCode) (s : State) (rest : List Byte)
  /-- The bytes ran out and no end of stream came: it waits for ever. -/
  | waiting (s : State)
  /-- The model stops. -/
  | fault (f : Fault)
deriving DecidableEq, Repr

/-- One DECODE of the DES on everything the RX stream offers: `bytes`, then an `Eos` if `eos` (R97, R100). -/
def desRun : List Byte → Bool → State → DesRun
  | [], eos, s => if eos then .raised .truncatedStream s [] else .waiting s
  | b :: bs, eos, s =>
    match desByte b s with
    | .more s1 => desRun bs eos s1
    | .complete s1 => .delivered s1 bs
    | .raised e s1 => .raised e s1 bs
    | .fault f => .fault f

end Sys2Proof.Machine
end

