-- ==== Sys2Proof/Machine/Receive.lean ====
section
/-!
DEFINITION. Receive dispatch (spec/42_fsm.md R131) and the errors of the receive states (spec/60_exceptions.md R182 to
R185). A packet is delivered only in a receive state; in every other state the block takes no byte of it and nothing
happens (R130, R139, log entry 8).
-/

namespace Sys2Proof.Machine

/-- The log event of a delivered packet, emitted before the kind is compared with the expectation (R131, R163). -/
def logReceived (h : Header) (s : State) : State :=
  emitLog ⟨false, classify h, h.seq, h.ack, h.len, h.flags⟩ s

/-- UnexpectedPacketKindError(EXP(S), k) for a delivered packet (R131, R183): the packet is logged, then FAIL. -/
def rejectAs (e : Kind) (h : Header) (s : State) : State :=
  fail .unexpectedPacketKind e (classify h) (logReceived h s)

/-- Receive dispatch for a packet with header `h` whose acceptance action is `act` (R131). -/
def receive (h : Header) (act : State → State) (s : State) : Outcome :=
  match s.state.expects with
  | none => .next s
  | some e => .next (if classify h = e then act (logReceived h s) else rejectAs e h s)

/-- Receive dispatch for a packet of a kind that no receive state expects (R137, R142). -/
def receiveUnexpected (h : Header) (s : State) : Outcome :=
  match s.state.expects with
  | none => .next s
  | some e => .next (rejectAs e h s)

/-- A delivered packet whose header is of no row of the opcode table: its kind is UNKNOWN (R75, R142). -/
def receiveUnknown (s : State) : Outcome := receiveUnexpected (rxHeader s) s

/-- The kind ERR.ACT records for an error of the DES: UNKNOWN for InvalidFlagsError, else NONE (R94, R97, R180). -/
def desErrorAct : ErrCode → Kind
  | .invalidFlags => .unknown
  | .none => .none
  | .encodingError => .none
  | .truncatedStream => .none
  | .unexpectedPacketKind => .none
  | .lengthError => .none

/-- An error the DES raises: `FAIL(code, EXP(S), act)` (R94, R97, R184, R185). -/
def receiveError (e : ErrCode) (s : State) : Outcome :=
  match s.state.expects with
  | none => .next s
  | some k => .next (fail e k (desErrorAct e) s)

end Sys2Proof.Machine
end

