-- ==== Sys2Proof/Machine/Ser.lean ====
section
/-!
DEFINITION. SER, the byte-serial serializer (spec/40_codec_serdes.md R91), the entry into a send state and the send
mechanism of the state machine (spec/42_fsm.md R132).
-/

namespace Sys2Proof.Machine

/-! ## The request -/

/-- The check the SER makes on a request: `TXH.LEN <= 2048` and `TXH.LEN == TXPLEN` (R91). -/
def serCheck (s : State) : Bool := lenLegal (txHeader s).len && decide ((txHeader s).len = s.txplen)

/-- Entering send state `st` with packet header `q` (R132): TXHDR is loaded, TXCNT cleared, STATE set, and the SER
request made. A refused request raises EncodingError in the send state (R180), before any byte is offered. -/
def enterSend (st : FsmState) (q : Header) (s : State) : State :=
  let s1 := setTxHeader q { s with txcnt := 0#12, state := st }
  if serCheck s1 then s1 else fail .encodingError .none .none s1

/-! ## Sending -/

/-- What one TX event leads to. -/
inductive SerResult where
  /-- The byte is accepted and more are to come. -/
  | more (s : State)
  /-- The byte was the packet's last: TXCNT is 0 again. -/
  | sent (s : State)
  /-- The operation ends with the error; what was accepted before stays with the transport (R91). -/
  | raised (e : ErrCode) (s : State)
  /-- The model stops. -/
  | fault (f : Fault)
deriving DecidableEq, Repr

/-- TX event `Accepted` (R91): the offered byte belongs to the transport. -/
def serAccept (s : State) : SerResult :=
  match txByte s with
  | .error f => .fault f
  | .ok b =>
    let s1 := appendTx b s
    if s.txcnt.toNat + 1 = Config.headerSize + txLen s then .sent { s1 with txcnt := 0#12 }
    else .more { s1 with txcnt := s.txcnt + 1#12 }

/-- The TX events (R55). -/
inductive TxEvent where
  | accepted
  | txErr
deriving DecidableEq, Repr

/-- What the SER does on a TX event (R91): an acceptance, or TruncatedStreamError at any byte, before the first one too.
No register changes on the error. -/
def serEvent (e : TxEvent) (s : State) : SerResult :=
  match e with
  | .accepted => serAccept s
  | .txErr => .raised .truncatedStream s

/-- The TX event the ports show: the error before the acceptance; neither, and the block waits (R55). -/
def txEvent (s : State) : Option TxEvent :=
  if s.pins.txErr then some .txErr else if s.pins.txReady then some .accepted else none

/-- The completion action of a send state (R132): the log event, and the next state. -/
def sendComplete (k : Kind) (nxt : FsmState) (s : State) : State :=
  let h := txHeader s
  { emitLog ⟨true, k, h.seq, h.ack, h.len, h.flags⟩ s with txcnt := 0#12, state := nxt }

/-- One step of a send state that sends a packet of kind `k` and then goes to `nxt` (R91, R132): a byte accepted, the
last byte accepted, an error of the TX stream (R182), or, with no TX event, a wait (R55; log entry 8). -/
def sendStep (k : Kind) (nxt : FsmState) (s : State) : Outcome :=
  match txEvent s with
  | none => .next s
  | some e =>
    match serEvent e s with
    | .more s1 => .next s1
    | .sent s1 => .next (sendComplete k nxt s1)
    | .raised c s1 => .next (fail c .none .none s1)
    | .fault f => .fault f

/-! ## The codec taken alone (R30, R91, R100) -/

/-- The SER unit's client supplies a payload and its actual length (R30), loads the header and makes the request:
EncodingError is the operation's result and nothing else happens (R181). DESIGN CHOICE (log entry 13): the actual
length of a payload of more than 65535 bytes does not fit TXPLEN, and the spec does not say what the client then writes
there; the model refuses the request with EncodingError, as R90 refuses such a packet. Of a payload longer than TXBUF the
first 2048 bytes are laid out, and the request is refused. DESIGN CHOICE (log entry 22): the spec does not say what TXBUF
holds at and above the supplied payload's length; here the payload takes the place of the whole buffer, so those cells
have no byte of their own, whatever was written there before. -/
def serUnitRequest (p : Packet) (s : State) : Except ErrCode State :=
  let s1 := setTxHeader p.toHeader
    { s with
      txplen := BitVec.ofNat 16 p.payload.length
      txbuf := cellsFrom 0 (p.payload.take Config.maxPayload)
      txcnt := 0#12 }
  if p.payload.length < 65536 ∧ serCheck s1 then .ok s1 else .error .encodingError

/-- The SER on a sequence of TX events, until the packet is sent or the operation ends in an error (R91, R100). -/
def serRun : List TxEvent → State → SerResult
  | [], s => .more s
  | e :: es, s =>
    match serEvent e s with
    | .more s1 => serRun es s1
    | .sent s1 => .sent s1
    | .raised c s1 => .raised c s1
    | .fault f => .fault f

end Sys2Proof.Machine
end

