-- ==== Sys2Proof/Machine/Handshake.lean ====
section
/-!
DEFINITION. The packet kinds of the handshake: SYN, SYN_ACK and ACK (spec/42_fsm.md R133, R134, R135).
-/

namespace Sys2Proof.Machine

/-- The acceptance action of a SYN (R133). The `a` operand of the SYN_ACK is the new value of PNX. -/
def acceptSyn (seq : Word) (s : State) : State :=
  enterSend .synReceived (mkSynAck s.cfgIss (plusOne seq)).toHeader { s with irs := seq, pnx := plusOne seq }

/-- SYN (R133): accepted in LISTENING; in another receive state a violation (R183). -/
def execSyn (seq ackNum : Word) (len : Half) (s : State) : Outcome :=
  receive ⟨seq, ackNum, len, Config.flagsSyn⟩ (acceptSyn seq) s

/-- The acceptance action of an ACK (R135): ACKM records whether the number matches, and the lifecycle goes on either
way (D9). -/
def acceptAck (ackNum : Word) (s : State) : State :=
  { s with ackm := ackMatches s.cfgIss ackNum, state := .established }

/-- ACK (R135): accepted in SYN_ACK_SENT; in another receive state a violation (R183). -/
def execAck (seq ackNum : Word) (len : Half) (s : State) : Outcome :=
  receive ⟨seq, ackNum, len, Config.flagsAck⟩ (acceptAck ackNum) s

/-- 0x0012 on the receive side (R76, R77): no kind of its own. With CFG.STRICT it is InvalidFlagsError (R184), else a
packet of unknown kind (R142). -/
def receiveSynAck (h : Header) (s : State) : Outcome :=
  if s.cfgStrict then receiveError .invalidFlags s else receiveUnexpected h s

/-- SYN_ACK (R134): in SYN_RECEIVED one step of sending it, from TXHDR, where the SYN's acceptance put its operands;
received, it is an undefined flags value (R76). -/
def execSynAck (seq ackNum : Word) (len : Half) (s : State) : Outcome :=
  if s.state = .synReceived then sendStep .synAck .synAckSent s
  else receiveSynAck ⟨seq, ackNum, len, Config.flagsSynAck⟩ s

end Sys2Proof.Machine
end

