-- ==== Sys2Proof/Machine/Teardown.lean ====
section
/-!
DEFINITION. The packet kinds of the teardown: FIN and FIN_ACK (spec/42_fsm.md R137, R138).
-/

namespace Sys2Proof.Machine

/-- FIN (R137): in DATA_RECEIVED one step of sending it, from TXHDR, where the DATA packet's acceptance put its
operands; received, a violation in every receive state. -/
def execFin (seq ackNum : Word) (len : Half) (s : State) : Outcome :=
  if s.state = .dataReceived then sendStep .fin .finSent s
  else receiveUnexpected ⟨seq, ackNum, len, Config.flagsFin⟩ s

/-- The acceptance action of a FIN_ACK (R138): the lifecycle ends with success and the endpoint is closed. -/
def acceptFinAck (s : State) : State := emitEpClose { s with state := .closed }

/-- FIN_ACK (R138): accepted in FIN_SENT; in another receive state a violation (R183). -/
def execFinAck (seq ackNum : Word) (len : Half) (s : State) : Outcome :=
  receive ⟨seq, ackNum, len, Config.flagsFinAck⟩ acceptFinAck s

end Sys2Proof.Machine
end

