-- ==== Sys2Proof/Machine/Transfer.lean ====
section
/-!
DEFINITION. The data exchange: DATA (spec/42_fsm.md R136).
-/

namespace Sys2Proof.Machine

/-- The acceptance action of a DATA packet (R136): DATA_LEN and DATABUF record it, then the FIN is sent. -/
def acceptData (len : Half) (s : State) : Except Fault State :=
  match copyPayload len.toNat s with
  | .error f => .error f
  | .ok s1 => .ok (enterSend .dataReceived (mkFin s.pnx 0#32).toHeader { s1 with dataLen := len })

/-- DATA (R136): accepted in ESTABLISHED; in another receive state a violation (R183). With `len = 0` it is of kind
UNKNOWN (R119, R142). -/
def execData (seq ackNum : Word) (len : Half) (s : State) : Outcome :=
  let h : Header := ⟨seq, ackNum, len, Config.flagsData⟩
  match s.state.expects with
  | none => .next s
  | some e =>
    if classify h = e then
      match acceptData len (logReceived h s) with
      | .error f => .fault f
      | .ok s1 => .next s1
    else .next (rejectAs e h s)

end Sys2Proof.Machine
end

