-- ==== Sys2Proof/Machine/Dispatch.lean ====
section
/-! DEFINITION. One arm per constructor of Instr, each one call of the instruction's meaning. -/

namespace Sys2Proof.Machine

/-- The meaning of an instruction: of a packet of the row's kind. A received packet takes effect in the step that takes
its last byte, when it is delivered (R131); a packet the block sends takes one step for each TX event (R132). -/
def exec (i : Instr) (s : State) : Host.Outcome State Fault Refusal :=
  match i with
  | .data seq ackNum len => Sys2Proof.Machine.execData seq ackNum len s
  | .fin seq ackNum len => Sys2Proof.Machine.execFin seq ackNum len s
  | .syn seq ackNum len => Sys2Proof.Machine.execSyn seq ackNum len s
  | .ack seq ackNum len => Sys2Proof.Machine.execAck seq ackNum len s
  | .finAck seq ackNum len => Sys2Proof.Machine.execFinAck seq ackNum len s
  | .synAck seq ackNum len => Sys2Proof.Machine.execSynAck seq ackNum len s

end Sys2Proof.Machine
end

