-- ==== Sys2Proof/Machine/Driver.lean ====
section
/-!
DEFINITION. The Connection Driver: reset (spec/70_reset_and_hazards.md R210), START, RESULT (spec/43_driver.md R160,
R161), what the environment does in a cycle, and which external event a cycle brings (spec/00_scope.md R6;
spec/20_memory.md R54, R55).
-/

namespace Sys2Proof.Machine

/-! ## Reset and start -/

/-- The registers that reset and `start` both clear (R34), with STATE as given. The buffers, TXPLEN, which `start`
leaves unchanged, and the environment are not touched. -/
def clearRegisters (st : FsmState) (s : State) : State :=
  { s with
    state := st
    rxhdr := 0#96
    txhdr := 0#96
    rxhcnt := 0#4
    rxpcnt := 0#12
    txcnt := 0#12
    ackm := false
    err := .clear
    irs := 0#32
    pnx := 0#32
    dataLen := 0#16 }

/-- Reset (R210): every register at its reset value of R34, TXPLEN among them, STATE = IDLE; no close, no log event
(R211). -/
def resetBlock (s : State) : State :=
  { clearRegisters .idle s with cfgStrict := false, cfgIss := 0#32, txplen := 0#16 }

/-- START (R160): the configuration is latched from the ports, everything else cleared, STATE = LISTENING. Which endpoint
the streams belong to is not looked at: DESIGN CHOICE (log entry 20). -/
def startBlock (s : State) : State :=
  { clearRegisters .listening s with cfgStrict := s.pins.cfgStrict, cfgIss := s.pins.cfgIss }

/-! ## Result (R161) -/

/-- The source's `LifecycleResult` (R161). -/
inductive LifecycleResult where
  /-- Success: the recorded payload, IRS, PNX and ACKM. -/
  | success (payload : List Byte) (irs pnx : Word) (ackm : Bool)
  /-- `failure(detail)`: ERR. -/
  | failure (detail : ErrRecord)
deriving DecidableEq, Repr

/-- RESULT (R161): there is one once `done` is 1, and it holds until the next `start` or reset. -/
def result (s : State) : Option LifecycleResult :=
  match s.state with
  | .closed =>
    some (.success ((List.range s.dataLen.toNat).map (fun i => cellByte .databuf i s)) s.irs s.pnx s.ackm)
  | .failed => some (.failure s.err)
  | .idle => none
  | .listening => none
  | .synReceived => none
  | .synAckSent => none
  | .established => none
  | .dataReceived => none
  | .finSent => none

/-! ## A cycle of the environment (R7, R214; log entry 6) -/

/-- The coming cycle: the script's first entry, or a quiet one. -/
def nextCycle (s : State) : Cycle := s.script.headD .quiet

/-- The bytes the transport holds before the cycle's arrivals: a fresh endpoint holds none (R212), and with none
connected the bytes held stay, whatever the block has ended or started: DESIGN CHOICE (log entry 20). -/
def heldBytes (c : Cycle) (s : State) : List Byte := if c.connect then [] else s.rxIn

/-- A level of the transport carried into the cycle: once up it stays up until EpClose or reset (R214 c, d), and a fresh
endpoint shows none (R212; log entry 7). -/
def heldLevel (c : Cycle) (level : Bool) (s : State) : Bool :=
  level && !(c.connect || c.rst || s.epClosePulse)

/-- The input ports in the cycle (R31). -/
def cyclePins (c : Cycle) (s : State) : Pins :=
  { rxValid := !(heldBytes c s ++ c.arrive).isEmpty
    rst := c.rst
    start := c.start
    cfgStrict := c.cfgStrict
    cfgIss := c.cfgIss
    rxEos := heldLevel c s.pins.rxEos s || c.rxEos
    txReady := c.txReady
    txErr := heldLevel c s.pins.txErr s || c.txErr
    dbAddr := c.dbAddr }

/-- The cycle `c` begun: the pulses of the cycle before end, the peer's bytes reach the transport, and the ports are
sampled. No register of the block changes. -/
def openCycle (c : Cycle) (s : State) : State :=
  { s with
    epClosePulse := false
    logPulse := none
    rxIn := heldBytes c s ++ c.arrive
    pins := cyclePins c s
    script := s.script.tail
    tick := s.tick + 1 }

/-- The beginning of the coming cycle. The model refuses an endpoint changed while `busy` is 1 (which it is not while
`rst` is 1, R210), and a byte offered after a cycle with `rx_eos` 1 and `rx_valid` 0 (R214 c, f; U14). That ban ends with
the level, at EpClose, reset or a fresh endpoint: DESIGN CHOICE (log entry 21). -/
def beginCycle (s : State) : Except Refusal State :=
  let c := nextCycle s
  if c.connect && busy s && !c.rst then .error .endpointChangedWhileBusy
  else if heldLevel c s.pins.rxEos s && !s.pins.rxValid && !c.arrive.isEmpty then .error .byteAfterEndOfStream
  else .ok (openCycle c s)

/-! ## The event of a cycle (R6) -/

/-- The external events that cause a step (R6). -/
inductive Event where
  /-- `rst` (R210). -/
  | reset
  /-- `start` accepted (R160). -/
  | start
  /-- RX event `Byte(b)` (R54). -/
  | byte (b : Byte)
  /-- RX event `Eos` (R54). -/
  | eos
  /-- A TX event in a send state (R55). -/
  | tx (e : TxEvent)
deriving DecidableEq, Repr

/-- The RX event the ports show: data before end of stream (R54, D20). -/
def rxEvent (s : State) : Option Event :=
  match s.rxIn with
  | b :: _ => some (.byte b)
  | [] => if s.pins.rxEos then some .eos else none

/-- The event of the cycle whose ports are sampled in `s`: reset above everything (R186, R190); `start` where
`start_ready` (R160), whether or not an endpoint has been connected since the last lifecycle, which R212 leaves to the host
(DESIGN CHOICE, log entry 20); an RX event in a receive state (R54); a TX event in a send state (R55); else none. -/
def eventOf (s : State) : Option Event :=
  if s.pins.rst then some .reset
  else if s.pins.start && startReady s then some .start
  else if rxReady s then rxEvent s
  else if txValid s then (txEvent s).map .tx
  else none

/-- The packet a send state is sending, from TXHDR: the FIN in DATA_RECEIVED, else the SYN_ACK (R130). -/
def sendInstr (s : State) : Instr :=
  let h := txHeader s
  if s.state = .dataReceived then .fin h.seq h.ack h.len else .synAck h.seq h.ack h.len

end Sys2Proof.Machine
end

