-- ==== Sys2Proof/Machine/Placement.lean ====
section
/-!
DEFINITION. Where an instruction stands when the very next step runs it: all but the last byte of the packet has been
taken, or accepted, and the last is on offer (log entry 9).
-/

namespace Sys2Proof.Machine

/-- The state of the lifecycle in which a packet with this header takes effect: the receive state that expects its
kind, or, for a packet the block itself sends (a FIN or SYN_ACK without payload), the send state that sends it (R130).
Every other header is placed in LISTENING. -/
def placeState (h : Header) : FsmState :=
  if h.flags = Config.flagsData then .established
  else if h.flags = Config.flagsFin ∧ h.len = 0#16 then .dataReceived
  else if h.flags = Config.flagsAck then .synAckSent
  else if h.flags = Config.flagsFinAck then .finSent
  else if h.flags = Config.flagsSynAck ∧ h.len = 0#16 then .synReceived
  else .listening

/-- The payload of the placed packet, of zeros, is taken too where the header is one DECODE reads on from (R94). -/
def placesPayload (strict : Bool) (h : Header) : Bool :=
  lenLegal h.len && decide (h.len ≠ 0#16) && !(strict && !definedFlags h.flags)

/-- A packet the block is about to finish sending: TXHDR holds it, all its twelve bytes but the last are accepted, and
the transport is ready. -/
def placeSent (H : HeaderBits) (s : State) : State :=
  { s with
    state := placeState (Header.ofBits H)
    txhdr := H
    txcnt := 11#12
    pins := { s.pins with txErr := false }
    script := [{ Cycle.quiet with txReady := true }] }

/-- A packet whose last byte the transport holds: the header's twelfth byte, or the last byte of a payload of zeros. -/
def placeReceived (H : HeaderBits) (s : State) : State :=
  let n := (Header.ofBits H).len.toNat
  if placesPayload s.cfgStrict (Header.ofBits H) then
    { s with
      state := placeState (Header.ofBits H)
      rxhdr := H
      rxhcnt := 12#4
      rxpcnt := BitVec.ofNat 12 (n - 1)
      rxbuf := Memory.copyLow (n - 1) (cellsFrom 0 (List.replicate (n - 1) 0#8)) s.rxbuf
      rxIn := [0#8]
      script := [] }
  else
    { s with
      state := placeState (Header.ofBits H)
      rxhdr := H >>> 8
      rxhcnt := 11#4
      rxpcnt := 0#12
      rxIn := [headerByte H 11]
      script := [] }

/-- The packet with header word `H` placed so that the next step finishes it. -/
def placePacket (H : HeaderBits) (s : State) : State :=
  if (placeState (Header.ofBits H)).isSend then placeSent H s else placeReceived H s

end Sys2Proof.Machine
end

