-- ==== Sys2Proof/Machine/Step.lean ====
section
/-!
DEFINITION. One step: one clock cycle of the environment and at most one external event (spec/00_scope.md R6). The
machine does not fetch at a program counter; a packet is fetched byte by byte by the deserializer, and the step that
takes its last byte runs it.
-/

namespace Sys2Proof.Machine

/-- Delivery of the packet in RXHDR (R96, R131): the instruction its header decodes to is run; a header of no row is a
packet of kind UNKNOWN (R142). -/
def deliver (s : State) : Host.Outcome State Fault Refusal :=
  match decodeHeader s.rxhdr with
  | .ok i => exec i s
  | .error _ => receiveUnknown s

/-- What a taken byte leads to (R93 to R96). -/
def afterByte (r : DesResult) : Host.Outcome State Fault Refusal :=
  match r with
  | .more s => .next s
  | .complete s => deliver s
  | .raised e s => receiveError e s
  | .fault f => .fault f

/-- The effect of the cycle's event (R6, R139); with no event the block waits. -/
def runEvent (s : State) : Host.Outcome State Fault Refusal :=
  match eventOf s with
  | none => .next s
  | some .reset => .next (resetBlock s)
  | some .start => .next (startBlock s)
  | some (.byte b) => afterByte (desByte b (takeRx s))
  | some .eos => receiveError .truncatedStream s
  | some (.tx _) => exec (sendInstr s) s

/-- One step of the machine: the environment's cycle, then the block's event. -/
def step (s : State) : Host.Outcome State Fault Refusal :=
  match beginCycle s with
  | .error r => .refused r
  | .ok s1 => runEvent s1

/-- `s` with the packet whose header's bits are `w`, numbered as spec/opcode_table.json numbers them, placed so that
the next step runs it. -/
def State.withFetchWord (s : State) (nbits w : Nat) : State := placePacket (tableHeader nbits w) s

end Sys2Proof.Machine
end

