-- ==== Sys2Proof/Machine/Text.lean ====
section
/-!
DEFINITION. The textual packet notation of spec/30_encoding.md R80, which exists for test vectors only.
-/

namespace Sys2Proof.Machine

/-- `(seq=<n>, ack=<n>)` without the closing bracket, in decimal. -/
def numbersText (h : Header) : String := "(seq=" ++ toString h.seq.toNat ++ ", ack=" ++ toString h.ack.toNat

/-- A payload as the text its ASCII bytes spell (R80, G1). DESIGN CHOICE (log entry 19): R80 gives a text for ASCII bytes
only; here every byte is the character of its code, and a quote is not marked in any way. -/
def payloadText (bs : List Byte) : String := String.ofList (bs.map (fun b => Char.ofNat b.toNat))

/-- A raw header with no kind name: `PKT(seq, ack, len, flags)`. -/
def rawText (h : Header) : String :=
  "PKT(" ++ toString h.seq.toNat ++ ", " ++ toString h.ack.toNat ++ ", " ++ toString h.len.toNat ++ ", " ++
    toString h.flags.toNat ++ ")"

/-- The notation of a packet (R80): `KIND(seq=<n>, ack=<n>)` for a packet of a kind with no payload, the DATA form with
its payload and length, and the raw form for every other packet. -/
def packetText (p : Packet) : String :=
  let h := p.toHeader
  if isData h then
    "DATA" ++ numbersText h ++ ", payload=\"" ++ payloadText p.payload ++ "\", length=" ++ toString h.len.toNat ++ ")"
  else if h.len ≠ 0#16 then rawText h
  else if isSyn h then "SYN" ++ numbersText h ++ ")"
  else if isAck h then "ACK" ++ numbersText h ++ ")"
  else if isFin h then "FIN" ++ numbersText h ++ ")"
  else if isFinAck h then "FIN_ACK" ++ numbersText h ++ ")"
  else if h.flags = Config.flagsSynAck then "SYN_ACK" ++ numbersText h ++ ")"
  else rawText h

end Sys2Proof.Machine
end

