-- ==== Sys2Proof/Machine/Ports.lean ====
section
/-!
DEFINITION. The ports (spec/10_state.md R31, R32): the port encodings of states, kinds and errors (R24, R74, R180) and
the output ports as functions of the state.
-/

namespace Sys2Proof.Machine

/-- STATE codes (R24). -/
def FsmState.code : FsmState → BitVec 4
  | .idle => 0#4
  | .listening => 1#4
  | .synReceived => 2#4
  | .synAckSent => 3#4
  | .established => 4#4
  | .dataReceived => 5#4
  | .finSent => 6#4
  | .closed => 7#4
  | .failed => 8#4

/-- Kind codes (R74). -/
def kindCode : Kind → BitVec 3
  | .unknown => 0#3
  | .syn => 1#3
  | .ack => 2#3
  | .data => 3#3
  | .fin => 4#3
  | .finAck => 5#3
  | .synAck => 6#3
  | .none => 7#3

/-- Error codes (R180). -/
def ErrCode.code : ErrCode → BitVec 3
  | .none => 0#3
  | .encodingError => 1#3
  | .truncatedStream => 2#3
  | .unexpectedPacketKind => 3#3
  | .invalidFlags => 4#3
  | .lengthError => 5#3

/-- The six `log_*` data ports as one word `{dir, kind, seq, ack, len, flags}` (R31, R65). -/
def LogEvent.bits (e : LogEvent) : BitVec 100 :=
  (BitVec.ofBool e.sent ++ kindCode e.kind : BitVec 4) ++ (⟨e.seq, e.ack, e.len, e.flags⟩ : Header).toBits

/-- `rx_valid`: the transport offers a byte (R31). -/
def rxValid (s : State) : Bool := !s.rxIn.isEmpty

/-- `rx_data`: the offered byte, where there is one (R31). -/
def rxData (s : State) : Option Byte := s.rxIn.head?

/-- `tx_data` (R32): the offered byte while `tx_valid`, else unspecified (U13). Where the byte's cell does not exist
(no reachable state) it is unspecified too. -/
def txData (s : State) : Byte :=
  if txValid s then
    match txByte s with
    | .ok b => b
    | .error _ => Config.idleTxData s.tick
  else Config.idleTxData s.tick

/-- `db_rdata = DATABUF[db_addr]`, combinational (R31, R57). -/
def dbRdata (s : State) : Byte := dbRead s.pins.dbAddr s

/-- `db_rdata` in the cycle of the step from `s` to `s'`: in the very step of the DATA acceptance copy the old or the
new cell, else the cell (R213, U7; log entry 3). -/
def dbRdataDuring (s s' : State) : Byte :=
  if s.state = .established ∧ s'.state = .dataReceived ∧ Config.copyReadSeesNew s'.tick = false then
    dbRead s'.pins.dbAddr s
  else dbRdata s'

/-- The output ports of R31. -/
structure Outputs where
  startReady : Bool
  busy       : Bool
  done       : Bool
  ok         : Bool
  state      : BitVec 4
  errCode    : BitVec 3
  errState   : BitVec 4
  errExp     : BitVec 3
  errAct     : BitVec 3
  ackm       : Bool
  irs        : Word
  pnx        : Word
  dataLen    : Half
  dbRdata    : Byte
  rxReady    : Bool
  txValid    : Bool
  txData     : Byte
  epClose    : Bool
  logValid   : Bool
  logDir     : BitVec 1
  logKind    : BitVec 3
  logSeq     : Word
  logAck     : Word
  logLen     : Half
  logFlags   : Half
deriving DecidableEq, Repr

/-- The 100 bits of the log data ports: the event while `log_valid`, else unspecified (U13). -/
def logPorts (s : State) : BitVec 100 :=
  match s.logPulse with
  | some e => e.bits
  | none => Config.idleLogPorts s.tick

/-- The output ports as a step leaves them (R26, R31, R32). -/
def outputs (s : State) : Outputs :=
  { startReady := Machine.startReady s
    busy := Machine.busy s
    done := Machine.done s
    ok := Machine.ok s
    state := s.state.code
    errCode := s.err.code.code
    errState := s.err.state.code
    errExp := kindCode s.err.exp
    errAct := kindCode s.err.act
    ackm := s.ackm
    irs := s.irs
    pnx := s.pnx
    dataLen := s.dataLen
    dbRdata := Machine.dbRdata s
    rxReady := Machine.rxReady s
    txValid := Machine.txValid s
    txData := Machine.txData s
    epClose := s.epClosePulse
    logValid := s.logPulse.isSome
    logDir := (logPorts s).extractLsb' 99 1
    logKind := (logPorts s).extractLsb' 96 3
    logSeq := (logPorts s).extractLsb' 64 32
    logAck := (logPorts s).extractLsb' 32 32
    logLen := (logPorts s).extractLsb' 16 16
    logFlags := (logPorts s).extractLsb' 0 16 }

end Sys2Proof.Machine
end

