-- ==== Sys2Proof/Safety.lean ====
section
/-!
DEFINITION. What counts as safe, in the terms the statements use: the invariant of the machine (what every state a run
reaches satisfies), the next-state relation of spec/42_fsm.md R139, and counts over the trace.
-/

namespace Sys2Proof.Machine

/-! ## The invariant -/

/-- The three buffers are in canonical form. -/
abbrev BuffersWf (s : State) : Prop := s.rxbuf.wf = true ∧ s.databuf.wf = true ∧ s.txbuf.wf = true

/-- In the header phase fewer than twelve header bytes and no payload byte have been taken (R25, R93). -/
abbrev InHeaderPhase (s : State) : Prop := s.rxhcnt.toNat < Config.headerSize ∧ s.rxpcnt = 0#12

/-- In the payload phase the header is complete and has passed R94, fewer than RXH.LEN payload bytes have been taken,
and each taken byte is in RXBUF (R56, R95). -/
abbrev InPayloadPhase (s : State) : Prop :=
  s.rxhcnt = 12#4 ∧ s.rxpcnt.toNat < rxLen s ∧ rxLen s ≤ Config.maxPayload ∧
    (s.cfgStrict = true → definedFlags (rxHeader s).flags = true) ∧
    ∀ i, i < s.rxpcnt.toNat → (s.rxbuf.read? i).isSome = true

/-- The byte counters in a receive state (R25). -/
abbrev ReceiveCounters (s : State) : Prop :=
  s.state.isReceive = true → s.txcnt = 0#12 ∧ (InHeaderPhase s ∨ InPayloadPhase s)

/-- The byte counters in a send state: fewer than twelve bytes accepted (R25, R30). -/
abbrev SendCounters (s : State) : Prop :=
  s.state.isSend = true → s.rxhcnt = 0#4 ∧ s.rxpcnt = 0#12 ∧ s.txcnt.toNat < Config.headerSize

/-- The byte counters in IDLE and CLOSED are 0 (R25). -/
abbrev RestCounters (s : State) : Prop :=
  s.state = .idle ∨ s.state = .closed → s.rxhcnt = 0#4 ∧ s.rxpcnt = 0#12 ∧ s.txcnt = 0#12

/-- The byte counters in FAILED are within their ranges (R25, R187). -/
abbrev FailedCounters (s : State) : Prop :=
  s.state = .failed →
    s.rxhcnt.toNat ≤ Config.headerSize ∧ s.rxpcnt.toNat < Config.maxPayload ∧ s.txcnt.toNat < Config.headerSize

/-- While SYN_RECEIVED, TXHDR is the SYN_ACK of R134; while DATA_RECEIVED, the FIN of R137. -/
abbrev TxPacketLoaded (s : State) : Prop :=
  (s.state = .synReceived → s.txhdr = (mkSynAck s.cfgIss s.pnx).toHeader.toBits) ∧
    (s.state = .dataReceived → s.txhdr = (mkFin s.pnx 0#32).toHeader.toBits)

/-- ERR is clear unless STATE is FAILED, and there it holds an error and the busy state it happened in (R28, R180). -/
abbrev ErrRecordOk (s : State) : Prop :=
  (s.state ≠ .failed → s.err = .clear) ∧
    (s.state = .failed → s.err.code ≠ .none ∧ s.err.state.isBusy = true)

/-- The states of a lifecycle that come before the SYN's acceptance. -/
def FsmState.beforeSyn : FsmState → Bool
  | .idle => true
  | .listening => true
  | .synReceived => false
  | .synAckSent => false
  | .established => false
  | .dataReceived => false
  | .finSent => false
  | .closed => false
  | .failed => false

/-- The states of a lifecycle in which a DATA packet has been recorded. -/
def FsmState.afterData : FsmState → Bool
  | .dataReceived => true
  | .finSent => true
  | .closed => true
  | .idle => false
  | .listening => false
  | .synReceived => false
  | .synAckSent => false
  | .established => false
  | .failed => false

/-- IRS, PNX and ACKM: 0 before the SYN; then PNX = IRS + 1 (R29, R133), ACKM being written by the ACK only (R26). -/
abbrev SequenceOk (s : State) : Prop :=
  (s.state.beforeSyn = true → s.irs = 0#32 ∧ s.pnx = 0#32) ∧
    (s.state.beforeSyn = false → s.state ≠ .failed → s.pnx = plusOne s.irs) ∧
    (s.state.beforeSyn = true ∨ s.state = .synReceived ∨ s.state = .synAckSent → s.ackm = false)

/-- DATA_LEN: 0 until a DATA packet is recorded, then its length; the recorded cells hold a value (R29, R57). -/
abbrev DataRecordOk (s : State) : Prop :=
  (s.state.afterData = false → s.state ≠ .failed → s.dataLen = 0#16) ∧
    (s.state.afterData = true → s.dataLen ≠ 0#16) ∧
    s.dataLen.toNat ≤ Config.maxPayload ∧
    ∀ i, i < s.dataLen.toNat → (s.databuf.read? i).isSome = true

/-- The invariant of the integrated block. -/
structure Inv (s : State) : Prop where
  /-- Every buffer is in canonical form. -/
  buffers : BuffersWf s
  /-- TXPLEN is the constant 0 in the integrated block (R30). -/
  txplen : s.txplen = 0#16
  /-- Receive states. -/
  receiving : ReceiveCounters s
  /-- Send states. -/
  sending : SendCounters s
  /-- IDLE and CLOSED. -/
  resting : RestCounters s
  /-- FAILED. -/
  failedCounters : FailedCounters s
  /-- The packet being sent. -/
  txPacket : TxPacketLoaded s
  /-- ERR. -/
  errRecord : ErrRecordOk s
  /-- IRS, PNX, ACKM. -/
  sequence : SequenceOk s
  /-- DATA_LEN and DATABUF. -/
  dataRecord : DataRecordOk s

/-! ## The next-state relation (R139) -/

/-- The rows of R139 that change STATE, with the rows that leave it unchanged: from which STATE a step may lead to
which. -/
def FsmState.mayBecome (a b : FsmState) : Bool :=
  decide (a = b) || decide (b = .idle) ||
    match a with
    | .idle => decide (b = .listening)
    | .listening => decide (b = .synReceived) || decide (b = .failed)
    | .synReceived => decide (b = .synAckSent) || decide (b = .failed)
    | .synAckSent => decide (b = .established) || decide (b = .failed)
    | .established => decide (b = .dataReceived) || decide (b = .failed)
    | .dataReceived => decide (b = .finSent) || decide (b = .failed)
    | .finSent => decide (b = .closed) || decide (b = .failed)
    | .closed => decide (b = .listening)
    | .failed => decide (b = .listening)

/-! ## Counts over the trace -/

/-- How many EpClose a trace holds (R162). -/
def closeCount (t : List OutEvent) : Nat := t.countP (fun e => decide (e = .epClose))

/-- The log events of a trace, in order (R163). -/
def logEvents : List OutEvent → List LogEvent
  | [] => []
  | .log e :: t => e :: logEvents t
  | .epClose :: t => logEvents t

/-! ## Rejection -/

/-- What UnexpectedPacketKindError leaves when a packet of kind `k` with header `h` is delivered where kind `e` is
expected (R131, R183, R187): the packet is logged, ERR records the state and both kinds, the endpoint is closed, and
nothing else changes. -/
def kindError (e k : Kind) (h : Header) (s : State) : State :=
  { s with
    logPulse := some ⟨false, k, h.seq, h.ack, h.len, h.flags⟩
    trace := s.trace ++ [.log ⟨false, k, h.seq, h.ack, h.len, h.flags⟩, .epClose]
    err := ⟨.unexpectedPacketKind, s.state, e, k⟩
    state := .failed
    epClosePulse := true }

/-! ## Comparing outcomes -/

/-- Two outcomes that are the same but for the log: the events recorded and the event shown (R143). -/
def sameButLog (o o' : Outcome) : Prop :=
  match o with
  | .next t => ∃ l tr, o' = .next { t with logPulse := l, trace := tr }
  | .fault f => o' = .fault f
  | .refused r => o' = .refused r

end Sys2Proof.Machine
end

