-- ==== Sys2Proof/Certificates/Slice0/Obligations.lean ====
section
/-!
DEFINITION. The statements of this model, for the provers. Each docstring names the rule of spec/ it formalises, or says
that it is about the model. Full next states are written out, so that a statement of an effect is also its frame: what
the record update does not name is unchanged.
-/

open Sys2Proof Sys2Proof.Machine

/-! ## Encoding and the codec -/

/-- R71 to R73, R83: every well-formed instruction, with every operand, decodes from its own bytes, and what follows it
on the stream is left. -/
def Obligations.InstructionsDecodeFromTheirEncoding : Prop :=
  ∀ (i : Instr) (rest : List Byte), i.wf = true → decode (encode i ++ rest) = .ok (i, rest)

/-- R83: the decoder gives an instruction only for bytes that begin with its encoding, and only one that meets its row's
constraint. -/
def Obligations.DecodedInstructionsAreTheBytesRead : Prop :=
  ∀ (bs rest : List Byte) (i : Instr), decode bs = .ok (i, rest) → i.wf = true ∧ bs = encode i ++ rest

/-- R73 on five received kinds and the transmitted one: header words written out from the opcode map. -/
def Obligations.OpcodeMapWordsDecode : Prop :=
  decodeTableWord 96 0x000000640000000000000002 = some (.syn 100#32 0#32 0#16) ∧
  decodeTableWord 96 0x000000650000000100000010 = some (.ack 101#32 1#32 0#16) ∧
  decodeTableWord 96 0x000000650000000100050000 = some (.data 101#32 1#32 5#16) ∧
  decodeTableWord 96 0x000000650000000000000001 = some (.fin 101#32 0#32 0#16) ∧
  decodeTableWord 96 0x0000006A0000006600000011 = some (.finAck 106#32 102#32 0#16) ∧
  decodeTableWord 96 0x000000000000006500000012 = some (.synAck 0#32 101#32 0#16)

/-- R22: twelve header bytes shifted in, whatever RXHDR held, leave the four fields in big-endian order. -/
def Obligations.TwelveShiftedBytesAreTheHeader : Prop :=
  ∀ (H : HeaderBits) (b0 b1 b2 b3 b4 b5 b6 b7 b8 b9 b10 b11 : Byte),
    Header.ofBits ([b0, b1, b2, b3, b4, b5, b6, b7, b8, b9, b10, b11].foldl shiftIn H) =
      ⟨be32 b0 b1 b2 b3, be32 b4 b5 b6 b7, be16 b8 b9, be16 b10 b11⟩

/-- R98: a packet valid for round trip encodes, and decodes to itself whatever follows it; a well-formed packet with
undefined flags encodes and is refused by a strict DECODE. -/
def Obligations.CodecRoundTrip : Prop :=
  ∀ (p : Packet) (t : List Byte) (eos : Bool),
    (∀ strict, p.validForRoundTrip strict = true →
      ∃ bs, encodePacket p = .ok bs ∧ decodePacket (bs ++ t) eos strict = .ok p t) ∧
    (p.wellFormed = true → definedFlags p.flags = false →
      ∃ bs, encodePacket p = .ok bs ∧ decodePacket (bs ++ t) eos true = .error .invalidFlags)

/-- R99: the boundary at MAX_PAYLOAD_SIZE, on both sides. -/
def Obligations.CodecBoundary : Prop :=
  ∀ (seq ack : Word) (flags : Half) (payload t : List Byte) (eos : Bool),
    (payload.length = 2048 →
      (∃ bs, encodePacket ⟨⟨seq, ack, 2048#16, flags⟩, payload⟩ = .ok bs ∧ bs.length = 2060) ∧
      decodePacket ((⟨seq, ack, 2048#16, flags⟩ : Header).bytes ++ payload ++ t) eos false =
        .ok ⟨⟨seq, ack, 2048#16, flags⟩, payload⟩ t) ∧
    (payload.length = 2049 →
      encodePacket ⟨⟨seq, ack, 2049#16, flags⟩, payload⟩ = .error .encodingError) ∧
    (∀ strict, decodePacket ((⟨seq, ack, 2049#16, flags⟩ : Header).bytes ++ t) eos strict = .error .lengthError)

/-- R90: ENCODE fails exactly when the length is over the limit or not the payload's. -/
def Obligations.EncodeFailsExactlyOnLength : Prop :=
  ∀ p : Packet,
    encodePacket p =
      if p.len.toNat ≤ 2048 ∧ p.payload.length = p.len.toNat then
        .ok (bytesBe32 p.seq ++ bytesBe32 p.ack ++ bytesBe16 p.len ++ bytesBe16 p.flags ++ p.payload)
      else .error .encodingError

/-- R92: what DECODE delivers is well-formed, was on the stream byte for byte, has defined flags if `strict`, and
exactly `12 + len` bytes are consumed. -/
def Obligations.DecodeConsumesExactlyThePacket : Prop :=
  ∀ (bs rest : List Byte) (eos strict : Bool) (p : Packet), decodePacket bs eos strict = .ok p rest →
    p.wellFormed = true ∧ (strict = true → definedFlags p.flags = true) ∧
      bs = p.toHeader.bytes ++ p.payload ++ rest ∧ bs.length = 12 + p.len.toNat + rest.length

/-- R110 to R115: the records the helpers make. MK_DATA copies the payload and its length, up to the 16-bit field's
range; over 2048 bytes ENCODE then refuses the record. -/
def Obligations.HelpersMakeTheirRecords : Prop :=
  ∀ s a : Word,
    mkSyn s a = ⟨⟨s, a, 0#16, 0x0002#16⟩, []⟩ ∧ mkAck s a = ⟨⟨s, a, 0#16, 0x0010#16⟩, []⟩ ∧
    mkFin s a = ⟨⟨s, a, 0#16, 0x0001#16⟩, []⟩ ∧ mkFinAck s a = ⟨⟨s, a, 0#16, 0x0011#16⟩, []⟩ ∧
    mkSynAck s a = ⟨⟨s, a, 0#16, 0x0012#16⟩, []⟩ ∧
    ∀ p : List Byte,
      (p.length ≤ 65535 → ∃ q, mkData s a p = .ok q ∧ q.seq = s ∧ q.ack = a ∧ q.len.toNat = p.length ∧
        q.flags = 0x0000#16 ∧ q.payload = p ∧ (2048 < p.length → encodePacket q = .error .encodingError)) ∧
      (65535 < p.length → mkData s a p = .error .encodingError)

/-- R122: at most one predicate is true of a packet, and exactly one where the rule says so. R116 to R121: each predicate
and CLASSIFY on every header, by the whole `flags` value (R123): UNKNOWN exactly where no predicate is true. R92: `DEFINED`
holds the five flags values and no other. -/
def Obligations.ClassificationIsExclusive : Prop :=
  ∀ h : Header,
    let n := [isSyn h, isAck h, isFin h, isData h, isFinAck h].count true
    n ≤ 1 ∧
    (n = 1 ↔ h.flags = 0x0001#16 ∨ h.flags = 0x0002#16 ∨ h.flags = 0x0010#16 ∨ h.flags = 0x0011#16 ∨
      (h.flags = 0x0000#16 ∧ 0 < h.len.toNat)) ∧
    (isSyn h = true ↔ h.flags = 0x0002#16) ∧ (isAck h = true ↔ h.flags = 0x0010#16) ∧
    (isFin h = true ↔ h.flags = 0x0001#16) ∧ (isFinAck h = true ↔ h.flags = 0x0011#16) ∧
    (isData h = true ↔ h.flags = 0x0000#16 ∧ 0 < h.len.toNat) ∧
    classify h =
      (if h.flags = 0x0002#16 then .syn
      else if h.flags = 0x0010#16 then .ack
      else if h.flags = 0x0001#16 then .fin
      else if h.flags = 0x0011#16 then .finAck
      else if h.flags = 0x0000#16 ∧ 0 < h.len.toNat then .data
      else .unknown) ∧
    (definedFlags h.flags = true ↔ h.flags = 0x0000#16 ∨ h.flags = 0x0001#16 ∨ h.flags = 0x0002#16 ∨
      h.flags = 0x0010#16 ∨ h.flags = 0x0011#16)

/-- R100, first half: from the moment a receive state is entered with both counters 0, the byte-serial DES delivers the
packet, raises the error or waits for ever as the pure DECODE says. -/
def Obligations.DeserializerAgreesWithDecode : Prop :=
  ∀ (bs : List Byte) (eos : Bool) (s : State), s.rxhcnt = 0#4 → s.rxpcnt = 0#12 →
    match decodePacket bs eos s.cfgStrict with
    | .ok p rest => ∃ t, desRun bs eos s = .delivered t rest ∧ rxPacket t = p ∧ t.rxhcnt = 0#4 ∧ t.rxpcnt = 0#12 ∧
        bs.length = 12 + p.len.toNat + rest.length
    | .error e => ∃ t rest, desRun bs eos s = .raised e t rest
    | .blocked => ∃ t, desRun bs eos s = .waiting t

/-- R100, second half: the bytes accepted from the SER, on a request that passes its check, are `ENCODE(p)`, byte by
byte; a TX error at any byte, before the first too, ends the operation with TruncatedStreamError and leaves what was
accepted; and a request that ENCODE refuses is refused before any byte is offered. (That a payload of more than 65535
bytes, whose length TXPLEN cannot hold, is refused too is the model's choice, log entry 13.) -/
def Obligations.SerializerAgreesWithEncode : Prop :=
  ∀ (p : Packet) (s : State),
    (∀ bs, encodePacket p = .ok bs → ∃ t, serUnitRequest p s = .ok t ∧ t.txOut = s.txOut ∧
      (∀ n, n < bs.length →
        ∃ u, serRun (List.replicate n .accepted) t = .more u ∧ u.txOut = s.txOut ++ bs.take n ∧
          serRun (List.replicate n .accepted ++ [.txErr]) t = .raised .truncatedStream u) ∧
      ∃ u, serRun (List.replicate bs.length .accepted) t = .sent u ∧ u.txOut = s.txOut ++ bs ∧ u.txcnt = 0#12) ∧
    (encodePacket p = .error .encodingError → serUnitRequest p s = .error .encodingError)

/-! ## Registers, buffers, events -/

/-- R21: the eight header registers are eight registers: a write of one is read back (the 16-bit ones keep the low 16
bits) and leaves the other seven alone. -/
def Obligations.HeaderRegistersAreIndependent : Prop :=
  ∀ (r : HeaderReg) (v : Word) (s : State),
    readX r (writeX r v s) =
        (match r with
          | .rxhSeq => v | .rxhAck => v | .txhSeq => v | .txhAck => v
          | .rxhLen => v &&& 0xFFFF#32 | .rxhFlags => v &&& 0xFFFF#32
          | .txhLen => v &&& 0xFFFF#32 | .txhFlags => v &&& 0xFFFF#32) ∧
    ∀ q, q ≠ r → readX q (writeX r v s) = readX q s

/-- R50, R56: a byte written to a cell that exists is read back, every other byte of every buffer is as before, and the
canonical form is kept; a cell that does not exist stops the model (log entry 5). -/
def Obligations.BufferWriteThenRead : Prop :=
  ∀ (sp : Space) (i : Nat) (v : Byte) (s : State),
    (i < 2048 → ∃ t, memWriteByte sp i v s = .ok t ∧ memReadByte sp i t = .ok v ∧
      (∀ sp' j, (sp' ≠ sp ∨ j ≠ i) → memReadByte sp' j t = memReadByte sp' j s) ∧
      (BuffersWf s → BuffersWf t)) ∧
    (2048 ≤ i → memWriteByte sp i v s = .error (.noSuchCell sp i))

/-- R187: the abort sequence, and that nothing else changes. -/
def Obligations.AbortSequence : Prop :=
  ∀ (code : ErrCode) (exp act : Kind) (s : State),
    fail code exp act s =
      { s with
        err := ⟨code, s.state, exp, act⟩
        state := .failed
        epClosePulse := true
        trace := s.trace ++ [.epClose] }

/-- R26: `busy`, `done` and `ok` by STATE. -/
def Obligations.StatusFlagsAreFunctionsOfState : Prop :=
  ∀ s : State,
    (busy s = true ↔ s.state ∈ [FsmState.listening, .synReceived, .synAckSent, .established, .dataReceived, .finSent]) ∧
    (done s = true ↔ s.state = .closed ∨ s.state = .failed) ∧ (ok s = true ↔ s.state = .closed)

/-- R24, R74, R180: the port codes of STATE, of the kinds and of the errors. R32, R60: `rx_ready` and `tx_valid` by
STATE, never 1 together, and one of them is 1 exactly when busy; while one of the twelve header bytes is offered,
`tx_data` is TXHDR's byte TXCNT. R31: what the other output ports show, the log ports while `log_valid`. -/
def Obligations.OutputPortsByState : Prop :=
  [FsmState.idle, .listening, .synReceived, .synAckSent, .established, .dataReceived, .finSent, .closed, .failed].map
    FsmState.code = [0#4, 1#4, 2#4, 3#4, 4#4, 5#4, 6#4, 7#4, 8#4] ∧
  [Kind.unknown, .syn, .ack, .data, .fin, .finAck, .synAck, .none].map kindCode =
    [0#3, 1#3, 2#3, 3#3, 4#3, 5#3, 6#3, 7#3] ∧
  [ErrCode.none, .encodingError, .truncatedStream, .unexpectedPacketKind, .invalidFlags, .lengthError].map ErrCode.code =
    [0#3, 1#3, 2#3, 3#3, 4#3, 5#3] ∧
  ∀ s : State,
    (rxReady s = true ↔ s.state ∈ [FsmState.listening, .synAckSent, .established, .finSent]) ∧
    (txValid s = true ↔ s.state ∈ [FsmState.synReceived, .dataReceived]) ∧
    ¬ (rxReady s = true ∧ txValid s = true) ∧ busy s = (rxReady s || txValid s) ∧ startReady s = !busy s ∧
    (txValid s = true → s.txcnt.toNat < 12 →
      (outputs s).txData = s.txhdr.extractLsb' (88 - 8 * s.txcnt.toNat) 8) ∧
    (outputs s).rxReady = rxReady s ∧ (outputs s).txValid = txValid s ∧ (outputs s).startReady = startReady s ∧
    (outputs s).busy = busy s ∧ (outputs s).done = done s ∧ (outputs s).ok = ok s ∧
    (outputs s).state = s.state.code ∧ (outputs s).errCode = s.err.code.code ∧
    (outputs s).errState = s.err.state.code ∧ (outputs s).errExp = kindCode s.err.exp ∧
    (outputs s).errAct = kindCode s.err.act ∧ (outputs s).ackm = s.ackm ∧ (outputs s).irs = s.irs ∧
    (outputs s).pnx = s.pnx ∧ (outputs s).dataLen = s.dataLen ∧ (outputs s).dbRdata = dbRead s.pins.dbAddr s ∧
    (outputs s).epClose = s.epClosePulse ∧ (outputs s).logValid = s.logPulse.isSome ∧
    ∀ e : LogEvent, s.logPulse = some e →
      (outputs s).logDir = (if e.sent = true then 1#1 else 0#1) ∧ (outputs s).logKind = kindCode e.kind ∧
      (outputs s).logSeq = e.seq ∧ (outputs s).logAck = e.ack ∧ (outputs s).logLen = e.len ∧
      (outputs s).logFlags = e.flags

/-- R57: below `data_len` the host reads the recorded cell, and the read does not depend on the free values. -/
def Obligations.HostReadsTheRecordedCell : Prop :=
  ∀ (s : State) (addr : BitVec 11) (b : Byte),
    addr.toNat < s.dataLen.toNat → s.databuf.read? addr.toNat = some b → dbRead addr s = b

/-- R161: the result: none before `done`; success with the recorded payload in CLOSED; the failure record in FAILED. -/
def Obligations.ResultByState : Prop :=
  ∀ s : State,
    (done s = false → result s = none) ∧ (s.state = .failed → result s = some (.failure s.err)) ∧
    (s.state = .closed → ∃ payload, result s = some (.success payload s.irs s.pnx s.ackm) ∧
      payload.length = s.dataLen.toNat ∧
      ∀ i b, i < s.dataLen.toNat → s.databuf.read? i = some b → payload[i]? = some b)

/-! ## The instructions: effect, frame and completion -/

/-- R133, with R132: the SYN, in LISTENING and in the other receive states. TXPLEN is the constant 0 in the integrated
block (R30); `SendRequestIsCheckedFirst` says what would happen were it not. -/
def Obligations.SynIsAccepted : Prop :=
  ∀ (seq ackNum : Word) (len : Half) (s : State),
    (s.state = .listening → s.txplen = 0#16 →
      exec (.syn seq ackNum len) s = .next
        { s with
          logPulse := some ⟨false, .syn, seq, ackNum, len, 0x0002#16⟩
          trace := s.trace ++ [.log ⟨false, .syn, seq, ackNum, len, 0x0002#16⟩]
          irs := seq
          pnx := seq + 1#32
          txhdr := (⟨s.cfgIss, seq + 1#32, 0#16, 0x0012#16⟩ : Header).toBits
          txcnt := 0#12
          state := .synReceived }) ∧
    (∀ e, s.state.expects = some e → e ≠ .syn →
      exec (.syn seq ackNum len) s = .next (kindError e .syn ⟨seq, ackNum, len, 0x0002#16⟩ s))

/-- R135: the ACK, in SYN_ACK_SENT and in the other receive states. ACKM says whether the number matches, and the
lifecycle goes on either way. -/
def Obligations.AckIsAccepted : Prop :=
  ∀ (seq ackNum : Word) (len : Half) (s : State),
    (s.state = .synAckSent →
      exec (.ack seq ackNum len) s = .next
        { s with
          logPulse := some ⟨false, .ack, seq, ackNum, len, 0x0010#16⟩
          trace := s.trace ++ [.log ⟨false, .ack, seq, ackNum, len, 0x0010#16⟩]
          ackm := decide (ackNum = s.cfgIss + 1#32)
          state := .established }) ∧
    (∀ e, s.state.expects = some e → e ≠ .ack →
      exec (.ack seq ackNum len) s = .next (kindError e .ack ⟨seq, ackNum, len, 0x0010#16⟩ s))

/-- R136, R57: the DATA packet, in ESTABLISHED and in the other receive states. DATABUF's cells below `len` become
RXBUF's, the others keep theirs; the FIN is loaded; nothing else changes. TXPLEN is 0 in the integrated block (R30).
With `len = 0` the packet is of kind UNKNOWN and rejected in every receive state. -/
def Obligations.DataIsAccepted : Prop :=
  ∀ (seq ackNum : Word) (len : Half) (s : State),
    (s.state = .established → s.txplen = 0#16 → 0 < len.toNat → len.toNat ≤ 2048 →
      ∃ m : Memory,
        exec (.data seq ackNum len) s = .next
          { s with
            logPulse := some ⟨false, .data, seq, ackNum, len, 0x0000#16⟩
            trace := s.trace ++ [.log ⟨false, .data, seq, ackNum, len, 0x0000#16⟩]
            dataLen := len
            databuf := m
            txhdr := (⟨s.pnx, 0#32, 0#16, 0x0001#16⟩ : Header).toBits
            txcnt := 0#12
            state := .dataReceived } ∧
        (∀ i, i < len.toNat → m.read? i = s.rxbuf.read? i) ∧
        (∀ i, len.toNat ≤ i → m.read? i = s.databuf.read? i) ∧
        (BuffersWf s → m.wf = true)) ∧
    (∀ e, s.state.expects = some e → e ≠ .data → 0 < len.toNat →
      exec (.data seq ackNum len) s = .next (kindError e .data ⟨seq, ackNum, len, 0x0000#16⟩ s)) ∧
    (∀ e, s.state.expects = some e → len.toNat = 0 →
      exec (.data seq ackNum len) s = .next (kindError e .unknown ⟨seq, ackNum, len, 0x0000#16⟩ s))

/-- R138: the FIN_ACK, in FIN_SENT and in the other receive states; `done` and `ok` are 1 in CLOSED (R26). -/
def Obligations.FinAckIsAccepted : Prop :=
  ∀ (seq ackNum : Word) (len : Half) (s : State),
    (s.state = .finSent →
      exec (.finAck seq ackNum len) s = .next
        { s with
          logPulse := some ⟨false, .finAck, seq, ackNum, len, 0x0011#16⟩
          trace := s.trace ++ [.log ⟨false, .finAck, seq, ackNum, len, 0x0011#16⟩, .epClose]
          epClosePulse := true
          state := .closed }) ∧
    (∀ e, s.state.expects = some e → e ≠ .finAck →
      exec (.finAck seq ackNum len) s = .next (kindError e .finAck ⟨seq, ackNum, len, 0x0011#16⟩ s))

/-- R134, with R91 and R132: in SYN_RECEIVED an accepted byte of TXHDR is appended to the TX stream; if it is the
packet's last, the SYN_ACK is logged and STATE becomes SYN_ACK_SENT. -/
def Obligations.SynAckIsSent : Prop :=
  ∀ (seq ackNum : Word) (len : Half) (s : State),
    s.state = .synReceived → s.pins.txErr = false → s.pins.txReady = true → s.txcnt.toNat < 12 →
    exec (.synAck seq ackNum len) s = .next
      (if s.txcnt.toNat + 1 = 12 + (txHeader s).len.toNat then
        { s with
          txOut := s.txOut ++ [headerByte s.txhdr s.txcnt.toNat]
          logPulse := some ⟨true, .synAck, (txHeader s).seq, (txHeader s).ack, (txHeader s).len, (txHeader s).flags⟩
          trace := s.trace ++
            [.log ⟨true, .synAck, (txHeader s).seq, (txHeader s).ack, (txHeader s).len, (txHeader s).flags⟩]
          txcnt := 0#12
          state := .synAckSent }
      else
        { s with
          txOut := s.txOut ++ [headerByte s.txhdr s.txcnt.toNat]
          txcnt := s.txcnt + 1#12 })

/-- R137, with R91 and R132: in DATA_RECEIVED an accepted byte of TXHDR is appended to the TX stream; if it is the
packet's last, the FIN is logged and STATE becomes FIN_SENT. (A FIN received: `OtherKindsAreRejected`.) -/
def Obligations.FinIsSent : Prop :=
  ∀ (seq ackNum : Word) (len : Half) (s : State),
    s.state = .dataReceived → s.pins.txErr = false → s.pins.txReady = true → s.txcnt.toNat < 12 →
    exec (.fin seq ackNum len) s = .next
      (if s.txcnt.toNat + 1 = 12 + (txHeader s).len.toNat then
        { s with
          txOut := s.txOut ++ [headerByte s.txhdr s.txcnt.toNat]
          logPulse := some ⟨true, .fin, (txHeader s).seq, (txHeader s).ack, (txHeader s).len, (txHeader s).flags⟩
          trace := s.trace ++
            [.log ⟨true, .fin, (txHeader s).seq, (txHeader s).ack, (txHeader s).len, (txHeader s).flags⟩]
          txcnt := 0#12
          state := .finSent }
      else
        { s with
          txOut := s.txOut ++ [headerByte s.txhdr s.txcnt.toNat]
          txcnt := s.txcnt + 1#12 })

/-- R182, send side: `tx_err` in a send state is TruncatedStreamError, whatever `tx_ready` says and however many bytes
are out, and ERR records the send state with NONE and NONE. -/
def Obligations.SendErrorIsTruncatedStream : Prop :=
  ∀ (seq ackNum : Word) (len : Half) (s : State), s.pins.txErr = true →
    (s.state = .synReceived → exec (.synAck seq ackNum len) s = .next
      { s with
        err := ⟨.truncatedStream, .synReceived, .none, .none⟩
        state := .failed
        epClosePulse := true
        trace := s.trace ++ [.epClose] }) ∧
    (s.state = .dataReceived → exec (.fin seq ackNum len) s = .next
      { s with
        err := ⟨.truncatedStream, .dataReceived, .none, .none⟩
        state := .failed
        epClosePulse := true
        trace := s.trace ++ [.epClose] })

/-- R55, R166: a send state waits while neither `tx_err` nor `tx_ready` is shown. R55 says that there is no step then;
that the wait is a next state, equal to the old one, is the model's choice (log entry 8). -/
def Obligations.SendWaitsUnchanged : Prop :=
  ∀ (seq ackNum : Word) (len : Half) (s : State), s.pins.txErr = false → s.pins.txReady = false →
    (s.state = .synReceived → exec (.synAck seq ackNum len) s = .next s) ∧
    (s.state = .dataReceived → exec (.fin seq ackNum len) s = .next s)

/-- R183, R131, R142: a packet delivered in a receive state that expects another kind is logged with its kind and ends
the lifecycle with UnexpectedPacketKindError; nothing else changes. A DATA packet without payload is of kind UNKNOWN in
either mode, and a SYN_ACK is where CFG.STRICT is 0 (R76); where it is 1 see
`ReceivedSynAckIsInvalidFlagsIfStrict`. Written out for the two rows no receive state expects: a received FIN is logged
and recorded as FIN (R137), a received 0x0012 as UNKNOWN (R76; log entry 10). -/
def Obligations.OtherKindsAreRejected : Prop :=
  ∀ (e : Kind) (s : State), s.state.expects = some e →
    (∀ i : Instr, classify i.header ≠ e → (definedFlags i.header.flags = false → s.cfgStrict = false) →
      exec i s = .next (kindError e (classify i.header) i.header s)) ∧
    (∀ (seq ackNum : Word) (len : Half),
      exec (.fin seq ackNum len) s = .next (kindError e .fin ⟨seq, ackNum, len, 0x0001#16⟩ s)) ∧
    (s.cfgStrict = false → ∀ (seq ackNum : Word) (len : Half),
      exec (.synAck seq ackNum len) s = .next (kindError e .unknown ⟨seq, ackNum, len, 0x0012#16⟩ s))

/-- R184, R77 row 2: 0x0012 in a receive state with CFG.STRICT = 1 is InvalidFlagsError: the same abort, no log event,
ERR.ACT UNKNOWN. With `len` above 2048 LengthError comes first (R186). That `exec` of the instruction gives it is the
model's inference (log entry 10, DEDUCED): in a run the DES raises the error at the header (`StepChecksTheCompletedHeader`)
and `step` does not get to `exec`. -/
def Obligations.ReceivedSynAckIsInvalidFlagsIfStrict : Prop :=
  ∀ (seq ackNum : Word) (len : Half) (e : Kind) (s : State), s.state.expects = some e → s.cfgStrict = true →
    len.toNat ≤ 2048 →
    exec (.synAck seq ackNum len) s = .next
      { s with
        err := ⟨.invalidFlags, s.state, e, .unknown⟩
        state := .failed
        epClosePulse := true
        trace := s.trace ++ [.epClose] }

/-- The model's choice (log entry 8), from R139's sentence that a pair not listed causes no step: a packet is not taken
in a state that is no receive state and is not sending it. -/
def Obligations.PacketsAreNotTakenElsewhere : Prop :=
  ∀ (i : Instr) (s : State), s.state.expects = none →
    (s.state = .synReceived → ∀ a b c, i ≠ .synAck a b c) →
    (s.state = .dataReceived → ∀ a b c, i ≠ .fin a b c) →
    exec i s = .next s

/-- The model's stop for an ill-formed DATA operand (log entry 5): longer than the buffers, which no delivered packet is
(R94). -/
def Obligations.DataLongerThanTheBufferStops : Prop :=
  ∀ (seq ackNum : Word) (len : Half) (s : State), s.state = .established → 2048 < len.toNat →
    exec (.data seq ackNum len) s = .fault (.noSuchCell .rxbuf 2048)

/-- R91, R180: were TXPLEN not 0, a SYN's acceptance would end in EncodingError in the send state, before a byte is
offered. -/
def Obligations.SendRequestIsCheckedFirst : Prop :=
  ∀ (seq ackNum : Word) (len : Half) (s : State), s.state = .listening → s.txplen ≠ 0#16 →
    ∃ t, exec (.syn seq ackNum len) s = .next t ∧ t.state = .failed ∧ t.txOut = s.txOut ∧
      t.err = ⟨.encodingError, .synReceived, .none, .none⟩

/-- R143: the header fields the state machine ignores are the SYN's `ack`, the ACK's `seq`, and both numbers of the
other kinds: with other values in them an instruction does the same, but for what is logged. -/
def Obligations.IgnoredFieldsChangeOnlyTheLog : Prop :=
  ∀ (seq seq' a a' : Word) (len : Half) (s : State),
    sameButLog (exec (.syn seq a len) s) (exec (.syn seq a' len) s) ∧
    sameButLog (exec (.ack seq a len) s) (exec (.ack seq' a len) s) ∧
    sameButLog (exec (.data seq a len) s) (exec (.data seq' a' len) s) ∧
    sameButLog (exec (.fin seq a len) s) (exec (.fin seq' a' len) s) ∧
    sameButLog (exec (.finAck seq a len) s) (exec (.finAck seq' a' len) s) ∧
    sameButLog (exec (.synAck seq a len) s) (exec (.synAck seq' a' len) s)

/-! ## The step -/

/-- A step runs the instruction the delivered header decodes to: when the cycle's byte completes a packet whose header
decodes to `i`, the step is `exec i` on the state with the packet taken in; and `i` is well-formed. -/
def Obligations.StepRunsTheReceivedPacket : Prop :=
  ∀ (s s1 s2 : State) (b : Byte) (i : Instr), beginCycle s = .ok s1 → eventOf s1 = some (.byte b) →
    desByte b (takeRx s1) = .complete s2 → decodeHeader s2.rxhdr = .ok i → step s = exec i s2 ∧ i.wf = true

/-- A step in a send state runs the packet in TXHDR: in a cycle with no reset the step is `exec` of it, whether a byte
is accepted, the stream fails, or the block waits. -/
def Obligations.StepRunsThePacketBeingSent : Prop :=
  ∀ (s s1 : State), beginCycle s = .ok s1 → s1.state.isSend = true → s1.pins.rst = false →
    step s = exec (sendInstr s1) s1

/-- In every state that meets the invariant, the packet being sent is what TXHDR decodes to (R134, R137). -/
def Obligations.PacketBeingSentIsDecodedFromTxhdr : Prop :=
  ∀ s : State, Inv s → s.state.isSend = true → decodeHeader s.txhdr = .ok (sendInstr s) ∧ (sendInstr s).wf = true

/-- R142: a completed packet whose header is of no row of the opcode table is logged as UNKNOWN and rejected. -/
def Obligations.StepRejectsUnknownPackets : Prop :=
  ∀ (s s1 s2 : State) (b : Byte) (e : Kind), beginCycle s = .ok s1 → eventOf s1 = some (.byte b) →
    desByte b (takeRx s1) = .complete s2 → classify (rxHeader s2) = .unknown →
    (definedFlags (rxHeader s2).flags = false → s2.cfgStrict = false) → s2.state.expects = some e →
    step s = .next (kindError e .unknown (rxHeader s2) s2)

/-- R93: a header byte before the twelfth is shifted in and counted, and nothing else of the block changes. -/
def Obligations.StepShiftsAHeaderByte : Prop :=
  ∀ (s s1 : State) (b : Byte), beginCycle s = .ok s1 → eventOf s1 = some (.byte b) → s1.rxhcnt.toNat < 11 →
    step s = .next
      { s1 with
        rxIn := s1.rxIn.tail
        rxhdr := shiftIn s1.rxhdr b
        rxhcnt := s1.rxhcnt + 1#4 }

/-- R94, R184, R185, R186: the twelfth header byte. Over-long first, then undefined flags if CFG.STRICT, and neither
takes a payload byte or logs; else a non-empty payload follows. (With an empty payload the packet is complete:
`StepRunsTheReceivedPacket`, `StepRejectsUnknownPackets`.) -/
def Obligations.StepChecksTheCompletedHeader : Prop :=
  ∀ (s s1 : State) (b : Byte) (e : Kind), beginCycle s = .ok s1 → eventOf s1 = some (.byte b) →
    s1.rxhcnt = 11#4 → s1.state.expects = some e →
    let H := shiftIn s1.rxhdr b
    let h := Header.ofBits H
    let t : State := { s1 with rxIn := s1.rxIn.tail, rxhdr := H, rxhcnt := 12#4 }
    if 2048 < h.len.toNat then
      step s = .next
        { t with
          err := ⟨.lengthError, s1.state, e, .none⟩
          state := .failed
          epClosePulse := true
          trace := s1.trace ++ [.epClose] }
    else if s1.cfgStrict = true ∧ definedFlags h.flags = false then
      step s = .next
        { t with
          err := ⟨.invalidFlags, s1.state, e, .unknown⟩
          state := .failed
          epClosePulse := true
          trace := s1.trace ++ [.epClose] }
    else if 0 < h.len.toNat then step s = .next { t with rxpcnt := 0#12 }
    else desByte b (takeRx s1) = .complete { t with rxhcnt := 0#4, rxpcnt := 0#12 }

/-- R95, R56: a payload byte that is not the last lands in RXBUF at the index RXPCNT had, and is counted; every other
byte of RXBUF is as before. -/
def Obligations.StepStoresAPayloadByte : Prop :=
  ∀ (s s1 : State) (b : Byte), beginCycle s = .ok s1 → eventOf s1 = some (.byte b) →
    s1.rxhcnt = 12#4 → s1.rxpcnt.toNat + 1 < rxLen s1 → rxLen s1 ≤ 2048 →
    ∃ m : Memory,
      step s = .next
        { s1 with
          rxIn := s1.rxIn.tail
          rxbuf := m
          rxpcnt := s1.rxpcnt + 1#12 } ∧
      m.read? s1.rxpcnt.toNat = some b ∧ ∀ j, j ≠ s1.rxpcnt.toNat → m.read? j = s1.rxbuf.read? j

/-- R97: the end of the stream in a receive state is TruncatedStreamError, at any point of the packet, and the counters
stay. -/
def Obligations.StepEndOfStreamIsTruncated : Prop :=
  ∀ (s s1 : State) (e : Kind), beginCycle s = .ok s1 → eventOf s1 = some .eos → s1.state.expects = some e →
    step s = .next
      { s1 with
        err := ⟨.truncatedStream, s1.state, e, .none⟩
        state := .failed
        epClosePulse := true
        trace := s1.trace ++ [.epClose] }

/-- R160: `start` accepted: the configuration latched, everything else cleared, the buffers untouched. -/
def Obligations.StepStartsALifecycle : Prop :=
  ∀ (s s1 : State), beginCycle s = .ok s1 → s1.pins.rst = false → s1.pins.start = true →
    (s1.state = .idle ∨ s1.state = .closed ∨ s1.state = .failed) →
    step s = .next
      { s1 with
        state := .listening
        cfgStrict := s1.pins.cfgStrict
        cfgIss := s1.pins.cfgIss
        rxhdr := 0#96, txhdr := 0#96, rxhcnt := 0#4, rxpcnt := 0#12, txcnt := 0#12
        ackm := false, irs := 0#32, pnx := 0#32, dataLen := 0#16
        err := ⟨.none, .idle, .unknown, .unknown⟩ }

/-- R210, R211, R34: reset in any state: every register at its reset value, TXPLEN among them, no close and no log event,
the buffers, the bytes sent and the trace kept. -/
def Obligations.StepResets : Prop :=
  ∀ (s s1 : State), beginCycle s = .ok s1 → s1.pins.rst = true →
    step s = .next
      { s1 with
        state := .idle
        cfgStrict := false
        cfgIss := 0#32
        txplen := 0#16
        rxhdr := 0#96, txhdr := 0#96, rxhcnt := 0#4, rxpcnt := 0#12, txcnt := 0#12
        ackm := false, irs := 0#32, pnx := 0#32, dataLen := 0#16
        err := ⟨.none, .idle, .unknown, .unknown⟩ } ∧
    s1.epClosePulse = false ∧ s1.logPulse = none ∧ s1.trace = s.trace ∧ s1.txOut = s.txOut

/-- R139, R166: the beginning of a cycle changes nothing of the block: the pulses of the cycle before end, the peer's bytes
reach the transport and the ports are sampled (the environment's part, log entry 6), and every register, every buffer, the
bytes sent and the trace are as they were. Of the ports, `rx_valid` says whether a byte is offered; `rx_eos` and `tx_err`,
once 1, stay 1 until EpClose or reset (R214 c, d), and a fresh endpoint drops them (log entry 7); the others are what the
environment drives in the cycle. With no event of the cycle that is the whole step (a wait, log entry 8). -/
def Obligations.StepWaitsWithoutAnEvent : Prop :=
  ∀ (s s1 : State), beginCycle s = .ok s1 →
    let c := nextCycle s
    let offered := (if c.connect = true then [] else s.rxIn) ++ c.arrive
    let dropsLevels := c.connect || c.rst || s.epClosePulse
    s1 = { s with
      epClosePulse := false
      logPulse := none
      rxIn := offered
      pins :=
        { rxValid := decide (offered ≠ [])
          rst := c.rst
          start := c.start
          cfgStrict := c.cfgStrict
          cfgIss := c.cfgIss
          rxEos := (s.pins.rxEos && !dropsLevels) || c.rxEos
          txReady := c.txReady
          txErr := (s.pins.txErr && !dropsLevels) || c.txErr
          dbAddr := c.dbAddr }
      script := s.script.tail
      tick := s.tick + 1 } ∧
    (eventOf s1 = none → step s = .next s1)

/-- R186, R190, R54, R55: reset above everything; a byte before the end of the stream; an error of the TX stream before
an acceptance; a busy `start` ignored. Where none of these is shown there is no event: a receive state with nothing offered
and no end of stream, and a send state with neither error nor acceptance, wait, whatever `start` is (R54, R55, R160, R166,
R216). The clauses cover every state. -/
def Obligations.EventPriorities : Prop :=
  ∀ s : State,
    (s.pins.rst = true → eventOf s = some .reset) ∧
    (s.pins.rst = false → s.pins.start = true → busy s = false → eventOf s = some .start) ∧
    (s.pins.rst = false → rxReady s = true → ∀ b bs, s.rxIn = b :: bs → eventOf s = some (.byte b)) ∧
    (s.pins.rst = false → rxReady s = true → s.rxIn = [] → s.pins.rxEos = true → eventOf s = some .eos) ∧
    (s.pins.rst = false → rxReady s = true → s.rxIn = [] → s.pins.rxEos = false → eventOf s = none) ∧
    (s.pins.rst = false → txValid s = true → s.pins.txErr = true → eventOf s = some (.tx .txErr)) ∧
    (s.pins.rst = false → txValid s = true → s.pins.txErr = false → s.pins.txReady = true →
      eventOf s = some (.tx .accepted)) ∧
    (s.pins.rst = false → txValid s = true → s.pins.txErr = false → s.pins.txReady = false → eventOf s = none) ∧
    (s.pins.rst = false → s.pins.start = false → busy s = false → eventOf s = none)

/-- The model's refusals (log entries 6 and 21), from R214 and U14: a step is refused exactly when the environment changes
the endpoint of a busy block outside reset, or offers a byte after the end of the stream with no EpClose, reset or fresh
endpoint between. -/
def Obligations.StepRefusesBrokenContractsOnly : Prop :=
  ∀ s : State,
    (∃ r, step s = .refused r) ↔
      ((nextCycle s).connect = true ∧ busy s = true ∧ (nextCycle s).rst = false) ∨
      ((nextCycle s).connect = false ∧ (nextCycle s).rst = false ∧ s.epClosePulse = false ∧
        s.pins.rxEos = true ∧ s.pins.rxValid = false ∧ (nextCycle s).arrive ≠ [])

/-- A whole packet, from R59, R79, R93 to R96: in a receive state with both counters 0, when the transport holds the
bytes of a well-formed received instruction and its payload and the coming cycles bring no reset, endpoint or new byte,
`12 + len` steps are `exec` of that instruction on a state that holds the packet and differs from the first in nothing
else of the block. A SYN_ACK's bytes reach delivery only when CFG.STRICT is 0 (R77). -/
def Obligations.StreamedPacketIsExecuted : Prop :=
  ∀ (i : Instr) (payload rest : List Byte) (s : State),
    i.wf = true → payload.length = i.header.len.toNat → rxReady s = true →
    (s.cfgStrict = true → definedFlags i.header.flags = true) →
    s.rxhcnt = 0#4 → s.rxpcnt = 0#12 → s.rxIn = encode i ++ payload ++ rest →
    (∀ c ∈ s.script, c.connect = false ∧ c.rst = false ∧ c.arrive = []) →
    ∃ t : State,
      Sys2Proof.core.run (12 + payload.length) s = exec i t ∧
      t.rxhdr = encodeHeader i ∧ t.rxIn = rest ∧ t.rxhcnt = 0#4 ∧ t.rxpcnt = 0#12 ∧
      (∀ j, j < payload.length → t.rxbuf.read? j = payload[j]?) ∧
      (∀ j, payload.length ≤ j → t.rxbuf.read? j = s.rxbuf.read? j) ∧
      t.script = s.script.drop (12 + payload.length) ∧
      { t with
        rxhdr := s.rxhdr, rxIn := s.rxIn, rxhcnt := s.rxhcnt, rxpcnt := s.rxpcnt, rxbuf := s.rxbuf
        script := s.script, tick := s.tick, pins := s.pins
        epClosePulse := s.epClosePulse, logPulse := s.logPulse } = s

/-- R140, with R133 to R138 and R163: from a block that is not busy, when the host connects an endpoint and starts, the
peer's bytes are a SYN, an ACK, a DATA packet and a FIN_ACK (anything may follow), and the TX stream is always ready, the
lifecycle reaches CLOSED with the payload recorded, the SYN_ACK and the FIN sent, six log events in order and one close;
the bytes after the FIN_ACK are not taken. -/
def Obligations.OrderedLifecycleReachesClosed : Prop :=
  ∀ (iss : Word) (strict : Bool) (p1 p2 p3 p4 : Packet) (rest : List Byte) (s : State),
    (∀ p ∈ [p1, p2, p3, p4], p.wellFormed = true) →
    classify p1.toHeader = .syn → classify p2.toHeader = .ack → classify p3.toHeader = .data →
    classify p4.toHeader = .finAck →
    busy s = false → s.txplen = 0#16 →
    let wire := fun p : Packet => p.toHeader.bytes ++ p.payload
    let ready : Cycle := { Cycle.quiet with txReady := true }
    let n := (wire p1).length + (wire p2).length + (wire p3).length + (wire p4).length + 24
    s.script =
      { ready with
        connect := true
        arrive := wire p1 ++ wire p2 ++ wire p3 ++ wire p4 ++ rest
        start := true
        cfgStrict := strict
        cfgIss := iss } :: List.replicate n ready →
    ∃ t : State, Sys2Proof.core.run (n + 1) s = .next t ∧ t.state = .closed ∧ t.rxIn = rest ∧
      result t = some (.success p3.payload p1.seq (p1.seq + 1#32) (decide (p2.ack = iss + 1#32))) ∧
      t.txOut = s.txOut ++ (mkSynAck iss (p1.seq + 1#32)).toHeader.bytes ++
        (mkFin (p1.seq + 1#32) 0#32).toHeader.bytes ∧
      t.trace = s.trace ++
        [.log ⟨false, .syn, p1.seq, p1.ack, p1.len, 0x0002#16⟩,
         .log ⟨true, .synAck, iss, p1.seq + 1#32, 0#16, 0x0012#16⟩,
         .log ⟨false, .ack, p2.seq, p2.ack, p2.len, 0x0010#16⟩,
         .log ⟨false, .data, p3.seq, p3.ack, p3.len, 0x0000#16⟩,
         .log ⟨true, .fin, p1.seq + 1#32, 0#32, 0#16, 0x0001#16⟩,
         .log ⟨false, .finAck, p4.seq, p4.ack, p4.len, 0x0011#16⟩, .epClose]

/-! ## Invariants and rules of the whole machine -/

/-- R34: what reset leaves, for every register the spec gives a reset value. -/
def Obligations.ResetValues : Prop :=
  State.reset.state = .idle ∧ State.reset.rxhdr = 0#96 ∧ State.reset.txhdr = 0#96 ∧ State.reset.rxhcnt = 0#4 ∧
  State.reset.rxpcnt = 0#12 ∧ State.reset.txcnt = 0#12 ∧ State.reset.ackm = false ∧
  State.reset.cfgStrict = false ∧ State.reset.cfgIss = 0#32 ∧
  State.reset.err = ⟨.none, .idle, .unknown, .unknown⟩ ∧ State.reset.irs = 0#32 ∧ State.reset.pnx = 0#32 ∧
  State.reset.dataLen = 0#16 ∧ State.reset.txplen = 0#16 ∧ State.reset.epClosePulse = false ∧
  State.reset.logPulse = none

/-- The state after reset meets the invariant. -/
def Obligations.ResetMeetsTheInvariant : Prop := Inv State.reset

/-- Every step keeps the invariant: canonical buffers; the counters' ranges (R25); the packet being sent (R134, R137);
ERR clear unless FAILED (R28); PNX = IRS + 1 after the SYN (R29); DATA_LEN and the recorded cells (R57). -/
def Obligations.StepKeepsTheInvariant : Prop :=
  ∀ s t : State, Inv s → step s = .next t → Inv t

/-- From a state that meets the invariant no step ends in a fault of the model: neither a missing cell nor counters out
of range is ever met (R56, R66, R94). -/
def Obligations.NoStepFaultsFromTheInvariant : Prop :=
  ∀ s : State, Inv s → ∀ f, step s ≠ .fault f

/-- R139: every change of STATE leads from a value to one that a row of the table leads it to. -/
def Obligations.StateChangesByTheTable : Prop :=
  ∀ s t : State, step s = .next t → s.state.mayBecome t.state = true

/-- R162: a step emits EpClose exactly when it ends a busy block's lifecycle, and then once; the pulse shows it. -/
def Obligations.ClosedExactlyOncePerLifecycle : Prop :=
  ∀ s t : State, step s = .next t →
    closeCount t.trace = closeCount s.trace + (if busy s = true ∧ done t = true then 1 else 0) ∧
    (t.epClosePulse = true ↔ busy s = true ∧ done t = true)

/-- R65, R35: a step appends to the trace exactly what its pulses show: at most one log event, then at most one close.
Earlier events stay. -/
def Obligations.TraceIsThePulses : Prop :=
  ∀ s t : State, step s = .next t →
    t.trace = s.trace ++ (t.logPulse.toList.map OutEvent.log) ++ (if t.epClosePulse = true then [.epClose] else [])

/-- R27: the configuration latches are constant while a lifecycle runs, whatever the inputs do: a step out of a busy
state changes them only by a reset. -/
def Obligations.ConfigurationIsConstantWhileBusy : Prop :=
  ∀ s t : State, step s = .next t → busy s = true → t.state ≠ .idle →
    t.cfgStrict = s.cfgStrict ∧ t.cfgIss = s.cfgIss

/-- R57: DATABUF is written by a DATA acceptance only, which logs a received DATA packet in ESTABLISHED, takes its
length into DATA_LEN and RXBUF's cells below it; every other step leaves DATABUF alone, and DATA_LEN too, but that
`start` and reset clear it. -/
def Obligations.DatabufChangesAtDataAcceptanceOnly : Prop :=
  ∀ s t : State, step s = .next t →
    (t.databuf = s.databuf ∧
      (t.dataLen = s.dataLen ∨ (t.dataLen = 0#16 ∧ (t.state = .idle ∨ t.state = .listening)))) ∨
    (s.state = .established ∧
      ∃ seq a len, t.logPulse = some ⟨false, .data, seq, a, len, 0x0000#16⟩ ∧ t.dataLen = len ∧ 0 < len.toNat ∧
        (∀ i, i < len.toNat → t.databuf.read? i = t.rxbuf.read? i) ∧
        (∀ i, len.toNat ≤ i → t.databuf.read? i = s.databuf.read? i))

/-- R59, R60: a step takes at most the next byte of the RX stream and appends at most one byte to the TX stream, never
both, and only in a receive state or a send state. -/
def Obligations.StreamsMoveInOrder : Prop :=
  ∀ s t : State, step s = .next t →
    ∃ s1, beginCycle s = .ok s1 ∧
      ((t.rxIn = s1.rxIn ∧ t.txOut = s1.txOut) ∨
       (rxReady s = true ∧ t.txOut = s1.txOut ∧ ∃ b, s1.rxIn = b :: t.rxIn) ∨
       (txValid s = true ∧ t.rxIn = s1.rxIn ∧ ∃ b, t.txOut = s1.txOut ++ [b]))

/-- R26: no rule reads ACKM. Two states that differ in ACKM alone stop alike, and answer next states that differ in ACKM
at most: it changes no transition and no result. -/
def Obligations.AckmInfluencesNothing : Prop :=
  ∀ (s : State) (a : Bool),
    match step s with
    | .next t => ∃ a', step { s with ackm := a } = .next { t with ackm := a' }
    | .fault f => step { s with ackm := a } = .fault f
    | .refused r => step { s with ackm := a } = .refused r

/-- R189, R164: FAILED and CLOSED are left by `start` or reset only, and in them, as in IDLE, the block takes no byte
(all the transport holds stays there) and sends none, and no error is raised: no EpClose, and ERR as it was. -/
def Obligations.TerminalStatesTakeNoStreamEvent : Prop :=
  ∀ s t : State, step s = .next t → busy s = false →
    t.rxIn = heldBytes (nextCycle s) s ++ (nextCycle s).arrive ∧ t.txOut = s.txOut ∧ t.trace = s.trace ∧
    ((nextCycle s).rst = true ∧ t.state = .idle ∨
     (nextCycle s).start = true ∧ t.state = .listening ∨
     t.state = s.state ∧ t.err = s.err ∧ t.dataLen = s.dataLen ∧ t.databuf = s.databuf)
end

