-- ==== Sys2Proof/Laws/Encoding.lean ====
section
/-!
SUPPORT. Laws of the byte order and of header words: a header is the bytes it is written as, and the word it is packed
into; a header register filled byte by byte holds the header of its twelve bytes.
-/

namespace Sys2Proof

/-- The fields of a packed header are the fields. -/
@[simp] theorem Header.ofBits_toBits (h : Header) : Header.ofBits h.toBits = h := by
  obtain ⟨a, b, c, d⟩ := h
  simp only [Header.ofBits, Header.toBits, Header.mk.injEq]
  refine ⟨?_, ?_, ?_, ?_⟩ <;>
  · apply BitVec.eq_of_getLsbD_eq
    intro i hi
    simp only [BitVec.getLsbD_extractLsb', BitVec.getLsbD_append, hi, decide_true, Bool.true_and]
    repeat' split
    all_goals first
      | omega
      | (congr 1; omega)

/-- Packing the fields of a header word gives the word. -/
@[simp] theorem Header.toBits_ofBits (H : HeaderBits) : (Header.ofBits H).toBits = H := by
  apply BitVec.eq_of_getLsbD_eq
  intro i hi
  simp only [Header.ofBits, Header.toBits, BitVec.getLsbD_extractLsb', BitVec.getLsbD_append]
  by_cases h1 : i < 16
  · simp [h1]
  by_cases h2 : i - 16 < 16
  · simp [h1, h2]; congr 1; omega
  by_cases h3 : i - 16 - 16 < 32
  · simp [h1, h2, h3]; congr 1; omega
  · have h4 : i - 16 - 16 - 32 < 32 := by omega
    simp [h1, h2, h3, h4]; congr 1; omega

/-- Two headers with the same word are the same. -/
theorem Header.toBits_injective {h k : Header} (e : h.toBits = k.toBits) : h = k := by
  rw [← Header.ofBits_toBits h, e, Header.ofBits_toBits]

/-- The bytes of a 16-bit field spell it. -/
theorem be16_bytes (v : Half) : be16 (v.extractLsb' 8 8) (v.extractLsb' 0 8) = v := by
  apply BitVec.eq_of_getLsbD_eq
  intro i hi
  simp only [be16, BitVec.getLsbD_extractLsb', BitVec.getLsbD_append]
  by_cases h : i < 8
  · simp [h]
  · have : i - 8 < 8 := by omega
    simp [h, this]; congr 1; omega

/-- The bytes of a 32-bit field spell it. -/
theorem be32_bytes (v : Word) :
    be32 (v.extractLsb' 24 8) (v.extractLsb' 16 8) (v.extractLsb' 8 8) (v.extractLsb' 0 8) = v := by
  apply BitVec.eq_of_getLsbD_eq
  intro i hi
  simp only [be32, BitVec.getLsbD_extractLsb', BitVec.getLsbD_append]
  by_cases h1 : i < 8
  · simp [h1]
  by_cases h2 : i - 8 < 8
  · simp [h1, h2]; congr 1; omega
  by_cases h3 : i - 8 - 8 < 8
  · simp [h1, h2, h3]; congr 1; omega
  · have h4 : i - 8 - 8 - 8 < 8 := by omega
    simp [h1, h2, h3, h4]; congr 1; omega

/-- The byte a 16-bit field is spelled by. -/
theorem bytes_be16 (b0 b1 : Byte) : bytesBe16 (be16 b0 b1) = [b0, b1] := by
  simp only [bytesBe16, be16, List.cons.injEq, and_true]
  refine ⟨?_, ?_⟩ <;>
  · apply BitVec.eq_of_getLsbD_eq
    intro i hi
    simp only [BitVec.getLsbD_extractLsb', BitVec.getLsbD_append, hi, decide_true, Bool.true_and]
    split
    all_goals first
      | omega
      | (congr 1; omega)

/-- The bytes a 32-bit field is spelled by. -/
theorem bytes_be32 (b0 b1 b2 b3 : Byte) : bytesBe32 (be32 b0 b1 b2 b3) = [b0, b1, b2, b3] := by
  simp only [bytesBe32, be32, List.cons.injEq, and_true]
  refine ⟨?_, ?_, ?_, ?_⟩ <;>
  · apply BitVec.eq_of_getLsbD_eq
    intro i hi
    simp only [BitVec.getLsbD_extractLsb', BitVec.getLsbD_append, hi, decide_true, Bool.true_and]
    repeat' split
    all_goals first
      | omega
      | (congr 1; omega)

/-- A header has twelve bytes. -/
@[simp] theorem Header.bytes_length (h : Header) : h.bytes.length = 12 := rfl

/-- Reading twelve bytes gives back the header they were written from. -/
@[simp] theorem headerOfBytes_bytes (h : Header) (rest : List Byte) :
    headerOfBytes (h.bytes ++ rest) = some (h, rest) := by
  simp [Header.bytes, bytesBe32, bytesBe16, headerOfBytes, be32_bytes, be16_bytes]

/-- What is read as a header was written from it. -/
theorem headerOfBytes_some {bs rest : List Byte} {h : Header} (e : headerOfBytes bs = some (h, rest)) :
    bs = h.bytes ++ rest := by
  unfold headerOfBytes at e
  split at e
  · simp only [Option.some.injEq, Prod.mk.injEq] at e
    obtain ⟨rfl, rfl⟩ := e
    simp [Header.bytes, bytes_be32, bytes_be16]
  · cases e

/-- There is no header in fewer than twelve bytes, and only there. -/
theorem headerOfBytes_none {bs : List Byte} : headerOfBytes bs = none ↔ bs.length < 12 := by
  constructor
  · intro e
    rcases Nat.lt_or_ge bs.length 12 with h | h
    · exact h
    · match bs, h with
      | _ :: _ :: _ :: _ :: _ :: _ :: _ :: _ :: _ :: _ :: _ :: _ :: _, _ => simp [headerOfBytes] at e
  · intro h
    cases e : headerOfBytes bs with
    | none => rfl
    | some p =>
      have := headerOfBytes_some (h := p.1) (rest := p.2) e
      simp only [this, List.length_append, Header.bytes_length] at h
      omega

/-- The bits of a header register after a byte is shifted in (R22). -/
theorem getLsbD_shiftIn (H : HeaderBits) (b : Byte) (i : Nat) (hi : i < 96) :
    (shiftIn H b).getLsbD i = if i < 8 then b.getLsbD i else H.getLsbD (i - 8) := by
  simp only [shiftIn, BitVec.getLsbD_append, BitVec.getLsbD_extractLsb', Nat.zero_add]
  have : i - 8 < 88 := by omega
  split <;> simp [*]

/-- Twelve bytes shifted into a header register leave the header they spell, whatever was there (R22, R101). -/
theorem shiftIn_twelve (H : HeaderBits) (b0 b1 b2 b3 b4 b5 b6 b7 b8 b9 b10 b11 : Byte) :
    [b0, b1, b2, b3, b4, b5, b6, b7, b8, b9, b10, b11].foldl shiftIn H =
      (⟨be32 b0 b1 b2 b3, be32 b4 b5 b6 b7, be16 b8 b9, be16 b10 b11⟩ : Header).toBits := by
  simp only [List.foldl]
  apply BitVec.eq_of_getLsbD_eq
  intro i hi
  simp only [Header.toBits, be32, be16, BitVec.getLsbD_append]
  repeat' split
  all_goals
    simp (disch := omega) only [getLsbD_shiftIn, if_neg, if_pos]
    try exact congrArg _ (by omega)

/-- An instruction that decodes from a header has that header and meets its row's constraint. -/
theorem decodeFields_ok {h : Header} {i : Instr} (e : decodeFields h = .ok i) : i.header = h ∧ i.wf = true := by
  obtain ⟨a, b, c, d⟩ := h
  unfold decodeFields at e
  repeat' split at e
  all_goals first
    | (cases e; done)
    | (simp only [Except.ok.injEq] at e; subst e; simp_all [Instr.header, Instr.wf])

/-- A well-formed instruction is what its header decodes to. -/
theorem decodeFields_header {i : Instr} (hw : i.wf = true) : decodeFields i.header = .ok i := by
  cases i <;>
    simp_all [Instr.wf, Instr.header, decodeFields, Config.flagsData, Config.flagsFin, Config.flagsSyn,
      Config.flagsAck, Config.flagsFinAck, Config.flagsSynAck, lenLegal]

end Sys2Proof
end

