-- ==== Sys2Proof/Laws/State.lean ====
section
/-!
SUPPORT. One lemma for each field and each update of the state, so that no later proof unfolds a record update.
-/

namespace Sys2Proof.Machine

/-! ## emitLog -/

@[simp] theorem emitLog_state (e : LogEvent) (s : State) : (emitLog e s).state = s.state := rfl
@[simp] theorem emitLog_rxhdr (e : LogEvent) (s : State) : (emitLog e s).rxhdr = s.rxhdr := rfl
@[simp] theorem emitLog_txhdr (e : LogEvent) (s : State) : (emitLog e s).txhdr = s.txhdr := rfl
@[simp] theorem emitLog_rxhcnt (e : LogEvent) (s : State) : (emitLog e s).rxhcnt = s.rxhcnt := rfl
@[simp] theorem emitLog_rxpcnt (e : LogEvent) (s : State) : (emitLog e s).rxpcnt = s.rxpcnt := rfl
@[simp] theorem emitLog_txcnt (e : LogEvent) (s : State) : (emitLog e s).txcnt = s.txcnt := rfl
@[simp] theorem emitLog_ackm (e : LogEvent) (s : State) : (emitLog e s).ackm = s.ackm := rfl
@[simp] theorem emitLog_cfgStrict (e : LogEvent) (s : State) : (emitLog e s).cfgStrict = s.cfgStrict := rfl
@[simp] theorem emitLog_cfgIss (e : LogEvent) (s : State) : (emitLog e s).cfgIss = s.cfgIss := rfl
@[simp] theorem emitLog_err (e : LogEvent) (s : State) : (emitLog e s).err = s.err := rfl
@[simp] theorem emitLog_irs (e : LogEvent) (s : State) : (emitLog e s).irs = s.irs := rfl
@[simp] theorem emitLog_pnx (e : LogEvent) (s : State) : (emitLog e s).pnx = s.pnx := rfl
@[simp] theorem emitLog_dataLen (e : LogEvent) (s : State) : (emitLog e s).dataLen = s.dataLen := rfl
@[simp] theorem emitLog_rxbuf (e : LogEvent) (s : State) : (emitLog e s).rxbuf = s.rxbuf := rfl
@[simp] theorem emitLog_databuf (e : LogEvent) (s : State) : (emitLog e s).databuf = s.databuf := rfl
@[simp] theorem emitLog_txbuf (e : LogEvent) (s : State) : (emitLog e s).txbuf = s.txbuf := rfl
@[simp] theorem emitLog_txplen (e : LogEvent) (s : State) : (emitLog e s).txplen = s.txplen := rfl
@[simp] theorem emitLog_epClosePulse (e : LogEvent) (s : State) : (emitLog e s).epClosePulse = s.epClosePulse := rfl
@[simp] theorem emitLog_logPulse (e : LogEvent) (s : State) : (emitLog e s).logPulse = some e := rfl
@[simp] theorem emitLog_rxIn (e : LogEvent) (s : State) : (emitLog e s).rxIn = s.rxIn := rfl
@[simp] theorem emitLog_txOut (e : LogEvent) (s : State) : (emitLog e s).txOut = s.txOut := rfl
@[simp] theorem emitLog_trace (e : LogEvent) (s : State) : (emitLog e s).trace = s.trace ++ [.log e] := rfl
@[simp] theorem emitLog_pins (e : LogEvent) (s : State) : (emitLog e s).pins = s.pins := rfl
@[simp] theorem emitLog_script (e : LogEvent) (s : State) : (emitLog e s).script = s.script := rfl
@[simp] theorem emitLog_tick (e : LogEvent) (s : State) : (emitLog e s).tick = s.tick := rfl

/-! ## emitEpClose -/

@[simp] theorem emitEpClose_state (s : State) : (emitEpClose s).state = s.state := rfl
@[simp] theorem emitEpClose_rxhdr (s : State) : (emitEpClose s).rxhdr = s.rxhdr := rfl
@[simp] theorem emitEpClose_txhdr (s : State) : (emitEpClose s).txhdr = s.txhdr := rfl
@[simp] theorem emitEpClose_rxhcnt (s : State) : (emitEpClose s).rxhcnt = s.rxhcnt := rfl
@[simp] theorem emitEpClose_rxpcnt (s : State) : (emitEpClose s).rxpcnt = s.rxpcnt := rfl
@[simp] theorem emitEpClose_txcnt (s : State) : (emitEpClose s).txcnt = s.txcnt := rfl
@[simp] theorem emitEpClose_ackm (s : State) : (emitEpClose s).ackm = s.ackm := rfl
@[simp] theorem emitEpClose_cfgStrict (s : State) : (emitEpClose s).cfgStrict = s.cfgStrict := rfl
@[simp] theorem emitEpClose_cfgIss (s : State) : (emitEpClose s).cfgIss = s.cfgIss := rfl
@[simp] theorem emitEpClose_err (s : State) : (emitEpClose s).err = s.err := rfl
@[simp] theorem emitEpClose_irs (s : State) : (emitEpClose s).irs = s.irs := rfl
@[simp] theorem emitEpClose_pnx (s : State) : (emitEpClose s).pnx = s.pnx := rfl
@[simp] theorem emitEpClose_dataLen (s : State) : (emitEpClose s).dataLen = s.dataLen := rfl
@[simp] theorem emitEpClose_rxbuf (s : State) : (emitEpClose s).rxbuf = s.rxbuf := rfl
@[simp] theorem emitEpClose_databuf (s : State) : (emitEpClose s).databuf = s.databuf := rfl
@[simp] theorem emitEpClose_txbuf (s : State) : (emitEpClose s).txbuf = s.txbuf := rfl
@[simp] theorem emitEpClose_txplen (s : State) : (emitEpClose s).txplen = s.txplen := rfl
@[simp] theorem emitEpClose_epClosePulse (s : State) : (emitEpClose s).epClosePulse = true := rfl
@[simp] theorem emitEpClose_logPulse (s : State) : (emitEpClose s).logPulse = s.logPulse := rfl
@[simp] theorem emitEpClose_rxIn (s : State) : (emitEpClose s).rxIn = s.rxIn := rfl
@[simp] theorem emitEpClose_txOut (s : State) : (emitEpClose s).txOut = s.txOut := rfl
@[simp] theorem emitEpClose_trace (s : State) : (emitEpClose s).trace = s.trace ++ [.epClose] := rfl
@[simp] theorem emitEpClose_pins (s : State) : (emitEpClose s).pins = s.pins := rfl
@[simp] theorem emitEpClose_script (s : State) : (emitEpClose s).script = s.script := rfl
@[simp] theorem emitEpClose_tick (s : State) : (emitEpClose s).tick = s.tick := rfl

/-! ## fail -/

@[simp] theorem fail_state (c : ErrCode) (x a : Kind) (s : State) : (fail c x a s).state = .failed := rfl
@[simp] theorem fail_rxhdr (c : ErrCode) (x a : Kind) (s : State) : (fail c x a s).rxhdr = s.rxhdr := rfl
@[simp] theorem fail_txhdr (c : ErrCode) (x a : Kind) (s : State) : (fail c x a s).txhdr = s.txhdr := rfl
@[simp] theorem fail_rxhcnt (c : ErrCode) (x a : Kind) (s : State) : (fail c x a s).rxhcnt = s.rxhcnt := rfl
@[simp] theorem fail_rxpcnt (c : ErrCode) (x a : Kind) (s : State) : (fail c x a s).rxpcnt = s.rxpcnt := rfl
@[simp] theorem fail_txcnt (c : ErrCode) (x a : Kind) (s : State) : (fail c x a s).txcnt = s.txcnt := rfl
@[simp] theorem fail_ackm (c : ErrCode) (x a : Kind) (s : State) : (fail c x a s).ackm = s.ackm := rfl
@[simp] theorem fail_cfgStrict (c : ErrCode) (x a : Kind) (s : State) : (fail c x a s).cfgStrict = s.cfgStrict := rfl
@[simp] theorem fail_cfgIss (c : ErrCode) (x a : Kind) (s : State) : (fail c x a s).cfgIss = s.cfgIss := rfl
@[simp] theorem fail_err (c : ErrCode) (x a : Kind) (s : State) : (fail c x a s).err = ⟨c, s.state, x, a⟩ := rfl
@[simp] theorem fail_irs (c : ErrCode) (x a : Kind) (s : State) : (fail c x a s).irs = s.irs := rfl
@[simp] theorem fail_pnx (c : ErrCode) (x a : Kind) (s : State) : (fail c x a s).pnx = s.pnx := rfl
@[simp] theorem fail_dataLen (c : ErrCode) (x a : Kind) (s : State) : (fail c x a s).dataLen = s.dataLen := rfl
@[simp] theorem fail_rxbuf (c : ErrCode) (x a : Kind) (s : State) : (fail c x a s).rxbuf = s.rxbuf := rfl
@[simp] theorem fail_databuf (c : ErrCode) (x a : Kind) (s : State) : (fail c x a s).databuf = s.databuf := rfl
@[simp] theorem fail_txbuf (c : ErrCode) (x a : Kind) (s : State) : (fail c x a s).txbuf = s.txbuf := rfl
@[simp] theorem fail_txplen (c : ErrCode) (x a : Kind) (s : State) : (fail c x a s).txplen = s.txplen := rfl
@[simp] theorem fail_epClosePulse (c : ErrCode) (x a : Kind) (s : State) : (fail c x a s).epClosePulse = true := rfl
@[simp] theorem fail_logPulse (c : ErrCode) (x a : Kind) (s : State) : (fail c x a s).logPulse = s.logPulse := rfl
@[simp] theorem fail_rxIn (c : ErrCode) (x a : Kind) (s : State) : (fail c x a s).rxIn = s.rxIn := rfl
@[simp] theorem fail_txOut (c : ErrCode) (x a : Kind) (s : State) : (fail c x a s).txOut = s.txOut := rfl
@[simp] theorem fail_trace (c : ErrCode) (x a : Kind) (s : State) : (fail c x a s).trace = s.trace ++ [.epClose] := rfl
@[simp] theorem fail_pins (c : ErrCode) (x a : Kind) (s : State) : (fail c x a s).pins = s.pins := rfl
@[simp] theorem fail_script (c : ErrCode) (x a : Kind) (s : State) : (fail c x a s).script = s.script := rfl
@[simp] theorem fail_tick (c : ErrCode) (x a : Kind) (s : State) : (fail c x a s).tick = s.tick := rfl

/-! ## setRxHeader -/

@[simp] theorem setRxHeader_state (h : Header) (s : State) : (setRxHeader h s).state = s.state := rfl
@[simp] theorem setRxHeader_rxhdr (h : Header) (s : State) : (setRxHeader h s).rxhdr = h.toBits := rfl
@[simp] theorem setRxHeader_txhdr (h : Header) (s : State) : (setRxHeader h s).txhdr = s.txhdr := rfl
@[simp] theorem setRxHeader_rxhcnt (h : Header) (s : State) : (setRxHeader h s).rxhcnt = s.rxhcnt := rfl
@[simp] theorem setRxHeader_rxpcnt (h : Header) (s : State) : (setRxHeader h s).rxpcnt = s.rxpcnt := rfl
@[simp] theorem setRxHeader_txcnt (h : Header) (s : State) : (setRxHeader h s).txcnt = s.txcnt := rfl
@[simp] theorem setRxHeader_ackm (h : Header) (s : State) : (setRxHeader h s).ackm = s.ackm := rfl
@[simp] theorem setRxHeader_cfgStrict (h : Header) (s : State) : (setRxHeader h s).cfgStrict = s.cfgStrict := rfl
@[simp] theorem setRxHeader_cfgIss (h : Header) (s : State) : (setRxHeader h s).cfgIss = s.cfgIss := rfl
@[simp] theorem setRxHeader_err (h : Header) (s : State) : (setRxHeader h s).err = s.err := rfl
@[simp] theorem setRxHeader_irs (h : Header) (s : State) : (setRxHeader h s).irs = s.irs := rfl
@[simp] theorem setRxHeader_pnx (h : Header) (s : State) : (setRxHeader h s).pnx = s.pnx := rfl
@[simp] theorem setRxHeader_dataLen (h : Header) (s : State) : (setRxHeader h s).dataLen = s.dataLen := rfl
@[simp] theorem setRxHeader_rxbuf (h : Header) (s : State) : (setRxHeader h s).rxbuf = s.rxbuf := rfl
@[simp] theorem setRxHeader_databuf (h : Header) (s : State) : (setRxHeader h s).databuf = s.databuf := rfl
@[simp] theorem setRxHeader_txbuf (h : Header) (s : State) : (setRxHeader h s).txbuf = s.txbuf := rfl
@[simp] theorem setRxHeader_txplen (h : Header) (s : State) : (setRxHeader h s).txplen = s.txplen := rfl
@[simp] theorem setRxHeader_epClosePulse (h : Header) (s : State) :
    (setRxHeader h s).epClosePulse = s.epClosePulse := rfl
@[simp] theorem setRxHeader_logPulse (h : Header) (s : State) : (setRxHeader h s).logPulse = s.logPulse := rfl
@[simp] theorem setRxHeader_rxIn (h : Header) (s : State) : (setRxHeader h s).rxIn = s.rxIn := rfl
@[simp] theorem setRxHeader_txOut (h : Header) (s : State) : (setRxHeader h s).txOut = s.txOut := rfl
@[simp] theorem setRxHeader_trace (h : Header) (s : State) : (setRxHeader h s).trace = s.trace := rfl
@[simp] theorem setRxHeader_pins (h : Header) (s : State) : (setRxHeader h s).pins = s.pins := rfl
@[simp] theorem setRxHeader_script (h : Header) (s : State) : (setRxHeader h s).script = s.script := rfl
@[simp] theorem setRxHeader_tick (h : Header) (s : State) : (setRxHeader h s).tick = s.tick := rfl

/-! ## setTxHeader -/

@[simp] theorem setTxHeader_state (h : Header) (s : State) : (setTxHeader h s).state = s.state := rfl
@[simp] theorem setTxHeader_rxhdr (h : Header) (s : State) : (setTxHeader h s).rxhdr = s.rxhdr := rfl
@[simp] theorem setTxHeader_txhdr (h : Header) (s : State) : (setTxHeader h s).txhdr = h.toBits := rfl
@[simp] theorem setTxHeader_rxhcnt (h : Header) (s : State) : (setTxHeader h s).rxhcnt = s.rxhcnt := rfl
@[simp] theorem setTxHeader_rxpcnt (h : Header) (s : State) : (setTxHeader h s).rxpcnt = s.rxpcnt := rfl
@[simp] theorem setTxHeader_txcnt (h : Header) (s : State) : (setTxHeader h s).txcnt = s.txcnt := rfl
@[simp] theorem setTxHeader_ackm (h : Header) (s : State) : (setTxHeader h s).ackm = s.ackm := rfl
@[simp] theorem setTxHeader_cfgStrict (h : Header) (s : State) : (setTxHeader h s).cfgStrict = s.cfgStrict := rfl
@[simp] theorem setTxHeader_cfgIss (h : Header) (s : State) : (setTxHeader h s).cfgIss = s.cfgIss := rfl
@[simp] theorem setTxHeader_err (h : Header) (s : State) : (setTxHeader h s).err = s.err := rfl
@[simp] theorem setTxHeader_irs (h : Header) (s : State) : (setTxHeader h s).irs = s.irs := rfl
@[simp] theorem setTxHeader_pnx (h : Header) (s : State) : (setTxHeader h s).pnx = s.pnx := rfl
@[simp] theorem setTxHeader_dataLen (h : Header) (s : State) : (setTxHeader h s).dataLen = s.dataLen := rfl
@[simp] theorem setTxHeader_rxbuf (h : Header) (s : State) : (setTxHeader h s).rxbuf = s.rxbuf := rfl
@[simp] theorem setTxHeader_databuf (h : Header) (s : State) : (setTxHeader h s).databuf = s.databuf := rfl
@[simp] theorem setTxHeader_txbuf (h : Header) (s : State) : (setTxHeader h s).txbuf = s.txbuf := rfl
@[simp] theorem setTxHeader_txplen (h : Header) (s : State) : (setTxHeader h s).txplen = s.txplen := rfl
@[simp] theorem setTxHeader_epClosePulse (h : Header) (s : State) :
    (setTxHeader h s).epClosePulse = s.epClosePulse := rfl
@[simp] theorem setTxHeader_logPulse (h : Header) (s : State) : (setTxHeader h s).logPulse = s.logPulse := rfl
@[simp] theorem setTxHeader_rxIn (h : Header) (s : State) : (setTxHeader h s).rxIn = s.rxIn := rfl
@[simp] theorem setTxHeader_txOut (h : Header) (s : State) : (setTxHeader h s).txOut = s.txOut := rfl
@[simp] theorem setTxHeader_trace (h : Header) (s : State) : (setTxHeader h s).trace = s.trace := rfl
@[simp] theorem setTxHeader_pins (h : Header) (s : State) : (setTxHeader h s).pins = s.pins := rfl
@[simp] theorem setTxHeader_script (h : Header) (s : State) : (setTxHeader h s).script = s.script := rfl
@[simp] theorem setTxHeader_tick (h : Header) (s : State) : (setTxHeader h s).tick = s.tick := rfl

/-! ## takeRx -/

@[simp] theorem takeRx_state (s : State) : (takeRx s).state = s.state := rfl
@[simp] theorem takeRx_rxhdr (s : State) : (takeRx s).rxhdr = s.rxhdr := rfl
@[simp] theorem takeRx_txhdr (s : State) : (takeRx s).txhdr = s.txhdr := rfl
@[simp] theorem takeRx_rxhcnt (s : State) : (takeRx s).rxhcnt = s.rxhcnt := rfl
@[simp] theorem takeRx_rxpcnt (s : State) : (takeRx s).rxpcnt = s.rxpcnt := rfl
@[simp] theorem takeRx_txcnt (s : State) : (takeRx s).txcnt = s.txcnt := rfl
@[simp] theorem takeRx_ackm (s : State) : (takeRx s).ackm = s.ackm := rfl
@[simp] theorem takeRx_cfgStrict (s : State) : (takeRx s).cfgStrict = s.cfgStrict := rfl
@[simp] theorem takeRx_cfgIss (s : State) : (takeRx s).cfgIss = s.cfgIss := rfl
@[simp] theorem takeRx_err (s : State) : (takeRx s).err = s.err := rfl
@[simp] theorem takeRx_irs (s : State) : (takeRx s).irs = s.irs := rfl
@[simp] theorem takeRx_pnx (s : State) : (takeRx s).pnx = s.pnx := rfl
@[simp] theorem takeRx_dataLen (s : State) : (takeRx s).dataLen = s.dataLen := rfl
@[simp] theorem takeRx_rxbuf (s : State) : (takeRx s).rxbuf = s.rxbuf := rfl
@[simp] theorem takeRx_databuf (s : State) : (takeRx s).databuf = s.databuf := rfl
@[simp] theorem takeRx_txbuf (s : State) : (takeRx s).txbuf = s.txbuf := rfl
@[simp] theorem takeRx_txplen (s : State) : (takeRx s).txplen = s.txplen := rfl
@[simp] theorem takeRx_epClosePulse (s : State) : (takeRx s).epClosePulse = s.epClosePulse := rfl
@[simp] theorem takeRx_logPulse (s : State) : (takeRx s).logPulse = s.logPulse := rfl
@[simp] theorem takeRx_rxIn (s : State) : (takeRx s).rxIn = s.rxIn.tail := rfl
@[simp] theorem takeRx_txOut (s : State) : (takeRx s).txOut = s.txOut := rfl
@[simp] theorem takeRx_trace (s : State) : (takeRx s).trace = s.trace := rfl
@[simp] theorem takeRx_pins (s : State) : (takeRx s).pins = s.pins := rfl
@[simp] theorem takeRx_script (s : State) : (takeRx s).script = s.script := rfl
@[simp] theorem takeRx_tick (s : State) : (takeRx s).tick = s.tick := rfl

/-! ## appendTx -/

@[simp] theorem appendTx_state (b : Byte) (s : State) : (appendTx b s).state = s.state := rfl
@[simp] theorem appendTx_rxhdr (b : Byte) (s : State) : (appendTx b s).rxhdr = s.rxhdr := rfl
@[simp] theorem appendTx_txhdr (b : Byte) (s : State) : (appendTx b s).txhdr = s.txhdr := rfl
@[simp] theorem appendTx_rxhcnt (b : Byte) (s : State) : (appendTx b s).rxhcnt = s.rxhcnt := rfl
@[simp] theorem appendTx_rxpcnt (b : Byte) (s : State) : (appendTx b s).rxpcnt = s.rxpcnt := rfl
@[simp] theorem appendTx_txcnt (b : Byte) (s : State) : (appendTx b s).txcnt = s.txcnt := rfl
@[simp] theorem appendTx_ackm (b : Byte) (s : State) : (appendTx b s).ackm = s.ackm := rfl
@[simp] theorem appendTx_cfgStrict (b : Byte) (s : State) : (appendTx b s).cfgStrict = s.cfgStrict := rfl
@[simp] theorem appendTx_cfgIss (b : Byte) (s : State) : (appendTx b s).cfgIss = s.cfgIss := rfl
@[simp] theorem appendTx_err (b : Byte) (s : State) : (appendTx b s).err = s.err := rfl
@[simp] theorem appendTx_irs (b : Byte) (s : State) : (appendTx b s).irs = s.irs := rfl
@[simp] theorem appendTx_pnx (b : Byte) (s : State) : (appendTx b s).pnx = s.pnx := rfl
@[simp] theorem appendTx_dataLen (b : Byte) (s : State) : (appendTx b s).dataLen = s.dataLen := rfl
@[simp] theorem appendTx_rxbuf (b : Byte) (s : State) : (appendTx b s).rxbuf = s.rxbuf := rfl
@[simp] theorem appendTx_databuf (b : Byte) (s : State) : (appendTx b s).databuf = s.databuf := rfl
@[simp] theorem appendTx_txbuf (b : Byte) (s : State) : (appendTx b s).txbuf = s.txbuf := rfl
@[simp] theorem appendTx_txplen (b : Byte) (s : State) : (appendTx b s).txplen = s.txplen := rfl
@[simp] theorem appendTx_epClosePulse (b : Byte) (s : State) : (appendTx b s).epClosePulse = s.epClosePulse := rfl
@[simp] theorem appendTx_logPulse (b : Byte) (s : State) : (appendTx b s).logPulse = s.logPulse := rfl
@[simp] theorem appendTx_rxIn (b : Byte) (s : State) : (appendTx b s).rxIn = s.rxIn := rfl
@[simp] theorem appendTx_txOut (b : Byte) (s : State) : (appendTx b s).txOut = s.txOut ++ [b] := rfl
@[simp] theorem appendTx_trace (b : Byte) (s : State) : (appendTx b s).trace = s.trace := rfl
@[simp] theorem appendTx_pins (b : Byte) (s : State) : (appendTx b s).pins = s.pins := rfl
@[simp] theorem appendTx_script (b : Byte) (s : State) : (appendTx b s).script = s.script := rfl
@[simp] theorem appendTx_tick (b : Byte) (s : State) : (appendTx b s).tick = s.tick := rfl

/-! ## packetComplete -/

@[simp] theorem packetComplete_state (s : State) : (packetComplete s).state = s.state := rfl
@[simp] theorem packetComplete_rxhdr (s : State) : (packetComplete s).rxhdr = s.rxhdr := rfl
@[simp] theorem packetComplete_txhdr (s : State) : (packetComplete s).txhdr = s.txhdr := rfl
@[simp] theorem packetComplete_rxhcnt (s : State) : (packetComplete s).rxhcnt = 0#4 := rfl
@[simp] theorem packetComplete_rxpcnt (s : State) : (packetComplete s).rxpcnt = 0#12 := rfl
@[simp] theorem packetComplete_txcnt (s : State) : (packetComplete s).txcnt = s.txcnt := rfl
@[simp] theorem packetComplete_ackm (s : State) : (packetComplete s).ackm = s.ackm := rfl
@[simp] theorem packetComplete_cfgStrict (s : State) : (packetComplete s).cfgStrict = s.cfgStrict := rfl
@[simp] theorem packetComplete_cfgIss (s : State) : (packetComplete s).cfgIss = s.cfgIss := rfl
@[simp] theorem packetComplete_err (s : State) : (packetComplete s).err = s.err := rfl
@[simp] theorem packetComplete_irs (s : State) : (packetComplete s).irs = s.irs := rfl
@[simp] theorem packetComplete_pnx (s : State) : (packetComplete s).pnx = s.pnx := rfl
@[simp] theorem packetComplete_dataLen (s : State) : (packetComplete s).dataLen = s.dataLen := rfl
@[simp] theorem packetComplete_rxbuf (s : State) : (packetComplete s).rxbuf = s.rxbuf := rfl
@[simp] theorem packetComplete_databuf (s : State) : (packetComplete s).databuf = s.databuf := rfl
@[simp] theorem packetComplete_txbuf (s : State) : (packetComplete s).txbuf = s.txbuf := rfl
@[simp] theorem packetComplete_txplen (s : State) : (packetComplete s).txplen = s.txplen := rfl
@[simp] theorem packetComplete_epClosePulse (s : State) : (packetComplete s).epClosePulse = s.epClosePulse := rfl
@[simp] theorem packetComplete_logPulse (s : State) : (packetComplete s).logPulse = s.logPulse := rfl
@[simp] theorem packetComplete_rxIn (s : State) : (packetComplete s).rxIn = s.rxIn := rfl
@[simp] theorem packetComplete_txOut (s : State) : (packetComplete s).txOut = s.txOut := rfl
@[simp] theorem packetComplete_trace (s : State) : (packetComplete s).trace = s.trace := rfl
@[simp] theorem packetComplete_pins (s : State) : (packetComplete s).pins = s.pins := rfl
@[simp] theorem packetComplete_script (s : State) : (packetComplete s).script = s.script := rfl
@[simp] theorem packetComplete_tick (s : State) : (packetComplete s).tick = s.tick := rfl

/-! ## logReceived -/

@[simp] theorem logReceived_state (h : Header) (s : State) : (logReceived h s).state = s.state := rfl
@[simp] theorem logReceived_rxhdr (h : Header) (s : State) : (logReceived h s).rxhdr = s.rxhdr := rfl
@[simp] theorem logReceived_txhdr (h : Header) (s : State) : (logReceived h s).txhdr = s.txhdr := rfl
@[simp] theorem logReceived_rxhcnt (h : Header) (s : State) : (logReceived h s).rxhcnt = s.rxhcnt := rfl
@[simp] theorem logReceived_rxpcnt (h : Header) (s : State) : (logReceived h s).rxpcnt = s.rxpcnt := rfl
@[simp] theorem logReceived_txcnt (h : Header) (s : State) : (logReceived h s).txcnt = s.txcnt := rfl
@[simp] theorem logReceived_ackm (h : Header) (s : State) : (logReceived h s).ackm = s.ackm := rfl
@[simp] theorem logReceived_cfgStrict (h : Header) (s : State) : (logReceived h s).cfgStrict = s.cfgStrict := rfl
@[simp] theorem logReceived_cfgIss (h : Header) (s : State) : (logReceived h s).cfgIss = s.cfgIss := rfl
@[simp] theorem logReceived_err (h : Header) (s : State) : (logReceived h s).err = s.err := rfl
@[simp] theorem logReceived_irs (h : Header) (s : State) : (logReceived h s).irs = s.irs := rfl
@[simp] theorem logReceived_pnx (h : Header) (s : State) : (logReceived h s).pnx = s.pnx := rfl
@[simp] theorem logReceived_dataLen (h : Header) (s : State) : (logReceived h s).dataLen = s.dataLen := rfl
@[simp] theorem logReceived_rxbuf (h : Header) (s : State) : (logReceived h s).rxbuf = s.rxbuf := rfl
@[simp] theorem logReceived_databuf (h : Header) (s : State) : (logReceived h s).databuf = s.databuf := rfl
@[simp] theorem logReceived_txbuf (h : Header) (s : State) : (logReceived h s).txbuf = s.txbuf := rfl
@[simp] theorem logReceived_txplen (h : Header) (s : State) : (logReceived h s).txplen = s.txplen := rfl
@[simp] theorem logReceived_epClosePulse (h : Header) (s : State) :
    (logReceived h s).epClosePulse = s.epClosePulse := rfl
@[simp] theorem logReceived_logPulse (h : Header) (s : State) :
    (logReceived h s).logPulse = some (⟨false, classify h, h.seq, h.ack, h.len, h.flags⟩ : LogEvent) := rfl
@[simp] theorem logReceived_rxIn (h : Header) (s : State) : (logReceived h s).rxIn = s.rxIn := rfl
@[simp] theorem logReceived_txOut (h : Header) (s : State) : (logReceived h s).txOut = s.txOut := rfl
@[simp] theorem logReceived_trace (h : Header) (s : State) :
    (logReceived h s).trace = s.trace ++ [.log (⟨false, classify h, h.seq, h.ack, h.len, h.flags⟩ : LogEvent)] := rfl
@[simp] theorem logReceived_pins (h : Header) (s : State) : (logReceived h s).pins = s.pins := rfl
@[simp] theorem logReceived_script (h : Header) (s : State) : (logReceived h s).script = s.script := rfl
@[simp] theorem logReceived_tick (h : Header) (s : State) : (logReceived h s).tick = s.tick := rfl

/-! ## rejectAs -/

@[simp] theorem rejectAs_state (e : Kind) (h : Header) (s : State) : (rejectAs e h s).state = .failed := rfl
@[simp] theorem rejectAs_rxhdr (e : Kind) (h : Header) (s : State) : (rejectAs e h s).rxhdr = s.rxhdr := rfl
@[simp] theorem rejectAs_txhdr (e : Kind) (h : Header) (s : State) : (rejectAs e h s).txhdr = s.txhdr := rfl
@[simp] theorem rejectAs_rxhcnt (e : Kind) (h : Header) (s : State) : (rejectAs e h s).rxhcnt = s.rxhcnt := rfl
@[simp] theorem rejectAs_rxpcnt (e : Kind) (h : Header) (s : State) : (rejectAs e h s).rxpcnt = s.rxpcnt := rfl
@[simp] theorem rejectAs_txcnt (e : Kind) (h : Header) (s : State) : (rejectAs e h s).txcnt = s.txcnt := rfl
@[simp] theorem rejectAs_ackm (e : Kind) (h : Header) (s : State) : (rejectAs e h s).ackm = s.ackm := rfl
@[simp] theorem rejectAs_cfgStrict (e : Kind) (h : Header) (s : State) : (rejectAs e h s).cfgStrict = s.cfgStrict := rfl
@[simp] theorem rejectAs_cfgIss (e : Kind) (h : Header) (s : State) : (rejectAs e h s).cfgIss = s.cfgIss := rfl
@[simp] theorem rejectAs_err (e : Kind) (h : Header) (s : State) :
    (rejectAs e h s).err = ⟨.unexpectedPacketKind, s.state, e, classify h⟩ := rfl
@[simp] theorem rejectAs_irs (e : Kind) (h : Header) (s : State) : (rejectAs e h s).irs = s.irs := rfl
@[simp] theorem rejectAs_pnx (e : Kind) (h : Header) (s : State) : (rejectAs e h s).pnx = s.pnx := rfl
@[simp] theorem rejectAs_dataLen (e : Kind) (h : Header) (s : State) : (rejectAs e h s).dataLen = s.dataLen := rfl
@[simp] theorem rejectAs_rxbuf (e : Kind) (h : Header) (s : State) : (rejectAs e h s).rxbuf = s.rxbuf := rfl
@[simp] theorem rejectAs_databuf (e : Kind) (h : Header) (s : State) : (rejectAs e h s).databuf = s.databuf := rfl
@[simp] theorem rejectAs_txbuf (e : Kind) (h : Header) (s : State) : (rejectAs e h s).txbuf = s.txbuf := rfl
@[simp] theorem rejectAs_txplen (e : Kind) (h : Header) (s : State) : (rejectAs e h s).txplen = s.txplen := rfl
@[simp] theorem rejectAs_epClosePulse (e : Kind) (h : Header) (s : State) : (rejectAs e h s).epClosePulse = true := rfl
@[simp] theorem rejectAs_logPulse (e : Kind) (h : Header) (s : State) :
    (rejectAs e h s).logPulse = some (⟨false, classify h, h.seq, h.ack, h.len, h.flags⟩ : LogEvent) := rfl
@[simp] theorem rejectAs_rxIn (e : Kind) (h : Header) (s : State) : (rejectAs e h s).rxIn = s.rxIn := rfl
@[simp] theorem rejectAs_txOut (e : Kind) (h : Header) (s : State) : (rejectAs e h s).txOut = s.txOut := rfl
@[simp] theorem rejectAs_trace (e : Kind) (h : Header) (s : State) :
    (rejectAs e h s).trace = s.trace ++ [.log (⟨false, classify h, h.seq, h.ack, h.len, h.flags⟩ : LogEvent)] ++ [.epClose] := rfl
@[simp] theorem rejectAs_pins (e : Kind) (h : Header) (s : State) : (rejectAs e h s).pins = s.pins := rfl
@[simp] theorem rejectAs_script (e : Kind) (h : Header) (s : State) : (rejectAs e h s).script = s.script := rfl
@[simp] theorem rejectAs_tick (e : Kind) (h : Header) (s : State) : (rejectAs e h s).tick = s.tick := rfl

/-! ## sendComplete -/

@[simp] theorem sendComplete_state (k : Kind) (n : FsmState) (s : State) : (sendComplete k n s).state = n := rfl
@[simp] theorem sendComplete_rxhdr (k : Kind) (n : FsmState) (s : State) : (sendComplete k n s).rxhdr = s.rxhdr := rfl
@[simp] theorem sendComplete_txhdr (k : Kind) (n : FsmState) (s : State) : (sendComplete k n s).txhdr = s.txhdr := rfl
@[simp] theorem sendComplete_rxhcnt (k : Kind) (n : FsmState) (s : State) :
    (sendComplete k n s).rxhcnt = s.rxhcnt := rfl
@[simp] theorem sendComplete_rxpcnt (k : Kind) (n : FsmState) (s : State) :
    (sendComplete k n s).rxpcnt = s.rxpcnt := rfl
@[simp] theorem sendComplete_txcnt (k : Kind) (n : FsmState) (s : State) : (sendComplete k n s).txcnt = 0#12 := rfl
@[simp] theorem sendComplete_ackm (k : Kind) (n : FsmState) (s : State) : (sendComplete k n s).ackm = s.ackm := rfl
@[simp] theorem sendComplete_cfgStrict (k : Kind) (n : FsmState) (s : State) :
    (sendComplete k n s).cfgStrict = s.cfgStrict := rfl
@[simp] theorem sendComplete_cfgIss (k : Kind) (n : FsmState) (s : State) :
    (sendComplete k n s).cfgIss = s.cfgIss := rfl
@[simp] theorem sendComplete_err (k : Kind) (n : FsmState) (s : State) : (sendComplete k n s).err = s.err := rfl
@[simp] theorem sendComplete_irs (k : Kind) (n : FsmState) (s : State) : (sendComplete k n s).irs = s.irs := rfl
@[simp] theorem sendComplete_pnx (k : Kind) (n : FsmState) (s : State) : (sendComplete k n s).pnx = s.pnx := rfl
@[simp] theorem sendComplete_dataLen (k : Kind) (n : FsmState) (s : State) :
    (sendComplete k n s).dataLen = s.dataLen := rfl
@[simp] theorem sendComplete_rxbuf (k : Kind) (n : FsmState) (s : State) : (sendComplete k n s).rxbuf = s.rxbuf := rfl
@[simp] theorem sendComplete_databuf (k : Kind) (n : FsmState) (s : State) :
    (sendComplete k n s).databuf = s.databuf := rfl
@[simp] theorem sendComplete_txbuf (k : Kind) (n : FsmState) (s : State) : (sendComplete k n s).txbuf = s.txbuf := rfl
@[simp] theorem sendComplete_txplen (k : Kind) (n : FsmState) (s : State) :
    (sendComplete k n s).txplen = s.txplen := rfl
@[simp] theorem sendComplete_epClosePulse (k : Kind) (n : FsmState) (s : State) :
    (sendComplete k n s).epClosePulse = s.epClosePulse := rfl
@[simp] theorem sendComplete_logPulse (k : Kind) (n : FsmState) (s : State) :
    (sendComplete k n s).logPulse = some ⟨true, k, (txHeader s).seq, (txHeader s).ack, (txHeader s).len, (txHeader s).flags⟩ := rfl
@[simp] theorem sendComplete_rxIn (k : Kind) (n : FsmState) (s : State) : (sendComplete k n s).rxIn = s.rxIn := rfl
@[simp] theorem sendComplete_txOut (k : Kind) (n : FsmState) (s : State) : (sendComplete k n s).txOut = s.txOut := rfl
@[simp] theorem sendComplete_trace (k : Kind) (n : FsmState) (s : State) :
    (sendComplete k n s).trace = s.trace ++ [.log ⟨true, k, (txHeader s).seq, (txHeader s).ack, (txHeader s).len, (txHeader s).flags⟩] := rfl
@[simp] theorem sendComplete_pins (k : Kind) (n : FsmState) (s : State) : (sendComplete k n s).pins = s.pins := rfl
@[simp] theorem sendComplete_script (k : Kind) (n : FsmState) (s : State) :
    (sendComplete k n s).script = s.script := rfl
@[simp] theorem sendComplete_tick (k : Kind) (n : FsmState) (s : State) : (sendComplete k n s).tick = s.tick := rfl

/-! ## acceptAck -/

@[simp] theorem acceptAck_state (a : Word) (s : State) : (acceptAck a s).state = .established := rfl
@[simp] theorem acceptAck_rxhdr (a : Word) (s : State) : (acceptAck a s).rxhdr = s.rxhdr := rfl
@[simp] theorem acceptAck_txhdr (a : Word) (s : State) : (acceptAck a s).txhdr = s.txhdr := rfl
@[simp] theorem acceptAck_rxhcnt (a : Word) (s : State) : (acceptAck a s).rxhcnt = s.rxhcnt := rfl
@[simp] theorem acceptAck_rxpcnt (a : Word) (s : State) : (acceptAck a s).rxpcnt = s.rxpcnt := rfl
@[simp] theorem acceptAck_txcnt (a : Word) (s : State) : (acceptAck a s).txcnt = s.txcnt := rfl
@[simp] theorem acceptAck_ackm (a : Word) (s : State) : (acceptAck a s).ackm = ackMatches s.cfgIss a := rfl
@[simp] theorem acceptAck_cfgStrict (a : Word) (s : State) : (acceptAck a s).cfgStrict = s.cfgStrict := rfl
@[simp] theorem acceptAck_cfgIss (a : Word) (s : State) : (acceptAck a s).cfgIss = s.cfgIss := rfl
@[simp] theorem acceptAck_err (a : Word) (s : State) : (acceptAck a s).err = s.err := rfl
@[simp] theorem acceptAck_irs (a : Word) (s : State) : (acceptAck a s).irs = s.irs := rfl
@[simp] theorem acceptAck_pnx (a : Word) (s : State) : (acceptAck a s).pnx = s.pnx := rfl
@[simp] theorem acceptAck_dataLen (a : Word) (s : State) : (acceptAck a s).dataLen = s.dataLen := rfl
@[simp] theorem acceptAck_rxbuf (a : Word) (s : State) : (acceptAck a s).rxbuf = s.rxbuf := rfl
@[simp] theorem acceptAck_databuf (a : Word) (s : State) : (acceptAck a s).databuf = s.databuf := rfl
@[simp] theorem acceptAck_txbuf (a : Word) (s : State) : (acceptAck a s).txbuf = s.txbuf := rfl
@[simp] theorem acceptAck_txplen (a : Word) (s : State) : (acceptAck a s).txplen = s.txplen := rfl
@[simp] theorem acceptAck_epClosePulse (a : Word) (s : State) : (acceptAck a s).epClosePulse = s.epClosePulse := rfl
@[simp] theorem acceptAck_logPulse (a : Word) (s : State) : (acceptAck a s).logPulse = s.logPulse := rfl
@[simp] theorem acceptAck_rxIn (a : Word) (s : State) : (acceptAck a s).rxIn = s.rxIn := rfl
@[simp] theorem acceptAck_txOut (a : Word) (s : State) : (acceptAck a s).txOut = s.txOut := rfl
@[simp] theorem acceptAck_trace (a : Word) (s : State) : (acceptAck a s).trace = s.trace := rfl
@[simp] theorem acceptAck_pins (a : Word) (s : State) : (acceptAck a s).pins = s.pins := rfl
@[simp] theorem acceptAck_script (a : Word) (s : State) : (acceptAck a s).script = s.script := rfl
@[simp] theorem acceptAck_tick (a : Word) (s : State) : (acceptAck a s).tick = s.tick := rfl

/-! ## acceptFinAck -/

@[simp] theorem acceptFinAck_state (s : State) : (acceptFinAck s).state = .closed := rfl
@[simp] theorem acceptFinAck_rxhdr (s : State) : (acceptFinAck s).rxhdr = s.rxhdr := rfl
@[simp] theorem acceptFinAck_txhdr (s : State) : (acceptFinAck s).txhdr = s.txhdr := rfl
@[simp] theorem acceptFinAck_rxhcnt (s : State) : (acceptFinAck s).rxhcnt = s.rxhcnt := rfl
@[simp] theorem acceptFinAck_rxpcnt (s : State) : (acceptFinAck s).rxpcnt = s.rxpcnt := rfl
@[simp] theorem acceptFinAck_txcnt (s : State) : (acceptFinAck s).txcnt = s.txcnt := rfl
@[simp] theorem acceptFinAck_ackm (s : State) : (acceptFinAck s).ackm = s.ackm := rfl
@[simp] theorem acceptFinAck_cfgStrict (s : State) : (acceptFinAck s).cfgStrict = s.cfgStrict := rfl
@[simp] theorem acceptFinAck_cfgIss (s : State) : (acceptFinAck s).cfgIss = s.cfgIss := rfl
@[simp] theorem acceptFinAck_err (s : State) : (acceptFinAck s).err = s.err := rfl
@[simp] theorem acceptFinAck_irs (s : State) : (acceptFinAck s).irs = s.irs := rfl
@[simp] theorem acceptFinAck_pnx (s : State) : (acceptFinAck s).pnx = s.pnx := rfl
@[simp] theorem acceptFinAck_dataLen (s : State) : (acceptFinAck s).dataLen = s.dataLen := rfl
@[simp] theorem acceptFinAck_rxbuf (s : State) : (acceptFinAck s).rxbuf = s.rxbuf := rfl
@[simp] theorem acceptFinAck_databuf (s : State) : (acceptFinAck s).databuf = s.databuf := rfl
@[simp] theorem acceptFinAck_txbuf (s : State) : (acceptFinAck s).txbuf = s.txbuf := rfl
@[simp] theorem acceptFinAck_txplen (s : State) : (acceptFinAck s).txplen = s.txplen := rfl
@[simp] theorem acceptFinAck_epClosePulse (s : State) : (acceptFinAck s).epClosePulse = true := rfl
@[simp] theorem acceptFinAck_logPulse (s : State) : (acceptFinAck s).logPulse = s.logPulse := rfl
@[simp] theorem acceptFinAck_rxIn (s : State) : (acceptFinAck s).rxIn = s.rxIn := rfl
@[simp] theorem acceptFinAck_txOut (s : State) : (acceptFinAck s).txOut = s.txOut := rfl
@[simp] theorem acceptFinAck_trace (s : State) : (acceptFinAck s).trace = s.trace ++ [.epClose] := rfl
@[simp] theorem acceptFinAck_pins (s : State) : (acceptFinAck s).pins = s.pins := rfl
@[simp] theorem acceptFinAck_script (s : State) : (acceptFinAck s).script = s.script := rfl
@[simp] theorem acceptFinAck_tick (s : State) : (acceptFinAck s).tick = s.tick := rfl

/-! ## resetBlock -/

@[simp] theorem resetBlock_state (s : State) : (resetBlock s).state = .idle := rfl
@[simp] theorem resetBlock_rxhdr (s : State) : (resetBlock s).rxhdr = 0#96 := rfl
@[simp] theorem resetBlock_txhdr (s : State) : (resetBlock s).txhdr = 0#96 := rfl
@[simp] theorem resetBlock_rxhcnt (s : State) : (resetBlock s).rxhcnt = 0#4 := rfl
@[simp] theorem resetBlock_rxpcnt (s : State) : (resetBlock s).rxpcnt = 0#12 := rfl
@[simp] theorem resetBlock_txcnt (s : State) : (resetBlock s).txcnt = 0#12 := rfl
@[simp] theorem resetBlock_ackm (s : State) : (resetBlock s).ackm = false := rfl
@[simp] theorem resetBlock_cfgStrict (s : State) : (resetBlock s).cfgStrict = false := rfl
@[simp] theorem resetBlock_cfgIss (s : State) : (resetBlock s).cfgIss = 0#32 := rfl
@[simp] theorem resetBlock_err (s : State) : (resetBlock s).err = .clear := rfl
@[simp] theorem resetBlock_irs (s : State) : (resetBlock s).irs = 0#32 := rfl
@[simp] theorem resetBlock_pnx (s : State) : (resetBlock s).pnx = 0#32 := rfl
@[simp] theorem resetBlock_dataLen (s : State) : (resetBlock s).dataLen = 0#16 := rfl
@[simp] theorem resetBlock_rxbuf (s : State) : (resetBlock s).rxbuf = s.rxbuf := rfl
@[simp] theorem resetBlock_databuf (s : State) : (resetBlock s).databuf = s.databuf := rfl
@[simp] theorem resetBlock_txbuf (s : State) : (resetBlock s).txbuf = s.txbuf := rfl
@[simp] theorem resetBlock_txplen (s : State) : (resetBlock s).txplen = 0#16 := rfl
@[simp] theorem resetBlock_epClosePulse (s : State) : (resetBlock s).epClosePulse = s.epClosePulse := rfl
@[simp] theorem resetBlock_logPulse (s : State) : (resetBlock s).logPulse = s.logPulse := rfl
@[simp] theorem resetBlock_rxIn (s : State) : (resetBlock s).rxIn = s.rxIn := rfl
@[simp] theorem resetBlock_txOut (s : State) : (resetBlock s).txOut = s.txOut := rfl
@[simp] theorem resetBlock_trace (s : State) : (resetBlock s).trace = s.trace := rfl
@[simp] theorem resetBlock_pins (s : State) : (resetBlock s).pins = s.pins := rfl
@[simp] theorem resetBlock_script (s : State) : (resetBlock s).script = s.script := rfl
@[simp] theorem resetBlock_tick (s : State) : (resetBlock s).tick = s.tick := rfl

/-! ## startBlock -/

@[simp] theorem startBlock_state (s : State) : (startBlock s).state = .listening := rfl
@[simp] theorem startBlock_rxhdr (s : State) : (startBlock s).rxhdr = 0#96 := rfl
@[simp] theorem startBlock_txhdr (s : State) : (startBlock s).txhdr = 0#96 := rfl
@[simp] theorem startBlock_rxhcnt (s : State) : (startBlock s).rxhcnt = 0#4 := rfl
@[simp] theorem startBlock_rxpcnt (s : State) : (startBlock s).rxpcnt = 0#12 := rfl
@[simp] theorem startBlock_txcnt (s : State) : (startBlock s).txcnt = 0#12 := rfl
@[simp] theorem startBlock_ackm (s : State) : (startBlock s).ackm = false := rfl
@[simp] theorem startBlock_cfgStrict (s : State) : (startBlock s).cfgStrict = s.pins.cfgStrict := rfl
@[simp] theorem startBlock_cfgIss (s : State) : (startBlock s).cfgIss = s.pins.cfgIss := rfl
@[simp] theorem startBlock_err (s : State) : (startBlock s).err = .clear := rfl
@[simp] theorem startBlock_irs (s : State) : (startBlock s).irs = 0#32 := rfl
@[simp] theorem startBlock_pnx (s : State) : (startBlock s).pnx = 0#32 := rfl
@[simp] theorem startBlock_dataLen (s : State) : (startBlock s).dataLen = 0#16 := rfl
@[simp] theorem startBlock_rxbuf (s : State) : (startBlock s).rxbuf = s.rxbuf := rfl
@[simp] theorem startBlock_databuf (s : State) : (startBlock s).databuf = s.databuf := rfl
@[simp] theorem startBlock_txbuf (s : State) : (startBlock s).txbuf = s.txbuf := rfl
@[simp] theorem startBlock_txplen (s : State) : (startBlock s).txplen = s.txplen := rfl
@[simp] theorem startBlock_epClosePulse (s : State) : (startBlock s).epClosePulse = s.epClosePulse := rfl
@[simp] theorem startBlock_logPulse (s : State) : (startBlock s).logPulse = s.logPulse := rfl
@[simp] theorem startBlock_rxIn (s : State) : (startBlock s).rxIn = s.rxIn := rfl
@[simp] theorem startBlock_txOut (s : State) : (startBlock s).txOut = s.txOut := rfl
@[simp] theorem startBlock_trace (s : State) : (startBlock s).trace = s.trace := rfl
@[simp] theorem startBlock_pins (s : State) : (startBlock s).pins = s.pins := rfl
@[simp] theorem startBlock_script (s : State) : (startBlock s).script = s.script := rfl
@[simp] theorem startBlock_tick (s : State) : (startBlock s).tick = s.tick := rfl

/-! ## openCycle -/

@[simp] theorem openCycle_state (c : Cycle) (s : State) : (openCycle c s).state = s.state := rfl
@[simp] theorem openCycle_rxhdr (c : Cycle) (s : State) : (openCycle c s).rxhdr = s.rxhdr := rfl
@[simp] theorem openCycle_txhdr (c : Cycle) (s : State) : (openCycle c s).txhdr = s.txhdr := rfl
@[simp] theorem openCycle_rxhcnt (c : Cycle) (s : State) : (openCycle c s).rxhcnt = s.rxhcnt := rfl
@[simp] theorem openCycle_rxpcnt (c : Cycle) (s : State) : (openCycle c s).rxpcnt = s.rxpcnt := rfl
@[simp] theorem openCycle_txcnt (c : Cycle) (s : State) : (openCycle c s).txcnt = s.txcnt := rfl
@[simp] theorem openCycle_ackm (c : Cycle) (s : State) : (openCycle c s).ackm = s.ackm := rfl
@[simp] theorem openCycle_cfgStrict (c : Cycle) (s : State) : (openCycle c s).cfgStrict = s.cfgStrict := rfl
@[simp] theorem openCycle_cfgIss (c : Cycle) (s : State) : (openCycle c s).cfgIss = s.cfgIss := rfl
@[simp] theorem openCycle_err (c : Cycle) (s : State) : (openCycle c s).err = s.err := rfl
@[simp] theorem openCycle_irs (c : Cycle) (s : State) : (openCycle c s).irs = s.irs := rfl
@[simp] theorem openCycle_pnx (c : Cycle) (s : State) : (openCycle c s).pnx = s.pnx := rfl
@[simp] theorem openCycle_dataLen (c : Cycle) (s : State) : (openCycle c s).dataLen = s.dataLen := rfl
@[simp] theorem openCycle_rxbuf (c : Cycle) (s : State) : (openCycle c s).rxbuf = s.rxbuf := rfl
@[simp] theorem openCycle_databuf (c : Cycle) (s : State) : (openCycle c s).databuf = s.databuf := rfl
@[simp] theorem openCycle_txbuf (c : Cycle) (s : State) : (openCycle c s).txbuf = s.txbuf := rfl
@[simp] theorem openCycle_txplen (c : Cycle) (s : State) : (openCycle c s).txplen = s.txplen := rfl
@[simp] theorem openCycle_epClosePulse (c : Cycle) (s : State) : (openCycle c s).epClosePulse = false := rfl
@[simp] theorem openCycle_logPulse (c : Cycle) (s : State) : (openCycle c s).logPulse = none := rfl
@[simp] theorem openCycle_rxIn (c : Cycle) (s : State) : (openCycle c s).rxIn = heldBytes c s ++ c.arrive := rfl
@[simp] theorem openCycle_txOut (c : Cycle) (s : State) : (openCycle c s).txOut = s.txOut := rfl
@[simp] theorem openCycle_trace (c : Cycle) (s : State) : (openCycle c s).trace = s.trace := rfl
@[simp] theorem openCycle_pins (c : Cycle) (s : State) : (openCycle c s).pins = cyclePins c s := rfl
@[simp] theorem openCycle_script (c : Cycle) (s : State) : (openCycle c s).script = s.script.tail := rfl
@[simp] theorem openCycle_tick (c : Cycle) (s : State) : (openCycle c s).tick = s.tick + 1 := rfl

/-! ## setMem -/

@[simp] theorem mem_rxbuf (s : State) : s.mem .rxbuf = s.rxbuf := rfl
@[simp] theorem mem_databuf (s : State) : s.mem .databuf = s.databuf := rfl
@[simp] theorem mem_txbuf (s : State) : s.mem .txbuf = s.txbuf := rfl
@[simp] theorem setMem_rxbuf (s : State) (m : Memory) : s.setMem .rxbuf m = { s with rxbuf := m } := rfl
@[simp] theorem setMem_databuf (s : State) (m : Memory) : s.setMem .databuf m = { s with databuf := m } := rfl
@[simp] theorem setMem_txbuf (s : State) (m : Memory) : s.setMem .txbuf m = { s with txbuf := m } := rfl

end Sys2Proof.Machine
end

