-- ==== Sys2Proof/Laws/Memory.lean ====
section
/-!
SUPPORT. Laws of the byte buffers: what a read gives after a write or a copy, and that every memory operation keeps the
canonical form.
-/

namespace Sys2Proof.Machine

/-- A read after a write to the same cell gives the byte written. -/
@[simp] theorem Memory.read?_write_same (m : Memory) (a : Nat) (b : Byte) : (m.write a b).read? a = some b := by
  induction m with
  | nil => simp [Memory.write, Memory.read?]
  | cons c m ih =>
    obtain ⟨k, d⟩ := c
    simp only [Memory.write]
    split
    · simp [Memory.read?]
    · split <;> simp_all [Memory.read?]

/-- A write leaves every other cell alone. -/
theorem Memory.read?_write_other (m : Memory) {a j : Nat} (b : Byte) (h : j ≠ a) :
    (m.write a b).read? j = m.read? j := by
  induction m with
  | nil => simp [Memory.write, Memory.read?, Ne.symm h]
  | cons c m ih =>
    obtain ⟨k, d⟩ := c
    simp only [Memory.write]
    split
    · simp [Memory.read?, Ne.symm h]
    · split
      · next e => subst e; simp [Memory.read?, Ne.symm h]
      · simp only [Memory.read?, ih]

/-- A read after a write, in one equation. -/
theorem Memory.read?_write (m : Memory) (a j : Nat) (b : Byte) :
    (m.write a b).read? j = if j = a then some b else m.read? j := by
  by_cases h : j = a
  · subst h; simp
  · simp [h, Memory.read?_write_other]

/-- A rising list rises from every lower bound. -/
theorem Memory.risesFrom_mono {m : Memory} {lo lo' : Nat} (h : lo' ≤ lo) (w : Memory.risesFrom lo m = true) :
    Memory.risesFrom lo' m = true := by
  cases m with
  | nil => rfl
  | cons c m =>
    simp only [Memory.risesFrom, Bool.and_eq_true, decide_eq_true_eq] at w ⊢
    exact ⟨by omega, w.2⟩

/-- A write keeps the indices strictly rising. -/
theorem Memory.risesFrom_write {m : Memory} {lo a : Nat} (b : Byte) (h : lo ≤ a)
    (w : Memory.risesFrom lo m = true) : Memory.risesFrom lo (m.write a b) = true := by
  induction m generalizing lo with
  | nil => simp [Memory.write, Memory.risesFrom, h]
  | cons c m ih =>
    obtain ⟨k, d⟩ := c
    simp only [Memory.risesFrom, Bool.and_eq_true, decide_eq_true_eq] at w
    simp only [Memory.write]
    split
    · next hk =>
      simp only [Memory.risesFrom, Bool.and_eq_true, decide_eq_true_eq]
      exact ⟨h, by omega, w.2⟩
    · split
      · next e =>
        subst e
        simpa [Memory.risesFrom] using ⟨w.1, w.2⟩
      · simp only [Memory.risesFrom, Bool.and_eq_true, decide_eq_true_eq]
        exact ⟨w.1, ih (by omega) w.2⟩

/-- The cells of a write are the old ones and the written one. -/
theorem Memory.mem_write {m : Memory} {a : Nat} {b : Byte} {c : Host.Cell} (h : c ∈ m.write a b) :
    c = (a, b) ∨ c ∈ m := by
  induction m with
  | nil => simpa [Memory.write] using h
  | cons e m ih =>
    obtain ⟨k, d⟩ := e
    simp only [Memory.write] at h
    split at h
    · simpa using h
    · split at h
      · rcases List.mem_cons.1 h with h | h
        · exact .inl h
        · exact .inr (List.mem_cons_of_mem _ h)
      · rcases List.mem_cons.1 h with h | h
        · exact .inr (by simp [h])
        · rcases ih h with h | h
          · exact .inl h
          · exact .inr (List.mem_cons_of_mem _ h)

/-- A write to an existing cell keeps the canonical form. -/
theorem Memory.wf_write {m : Memory} {a : Nat} (b : Byte) (h : a < Config.maxPayload) (w : m.wf = true) :
    (m.write a b).wf = true := by
  simp only [Memory.wf, Bool.and_eq_true, List.all_eq_true, decide_eq_true_eq] at w ⊢
  refine ⟨Memory.risesFrom_write b (Nat.zero_le a) w.1, fun c hc => ?_⟩
  rcases Memory.mem_write hc with rfl | hc
  · exact h
  · exact w.2 c hc

/-- Nothing below its first index is read from a rising list. -/
theorem Memory.read?_below {m : Memory} {lo j : Nat} (w : Memory.risesFrom lo m = true) (h : j < lo) :
    m.read? j = none := by
  induction m generalizing lo with
  | nil => rfl
  | cons c m ih =>
    obtain ⟨k, d⟩ := c
    simp only [Memory.risesFrom, Bool.and_eq_true, decide_eq_true_eq] at w
    simp only [Memory.read?]
    rw [if_neg (by omega)]
    exact ih w.2 (by omega)

/-- What is read from two buffers joined. -/
theorem Memory.read?_append (m k : Memory) (j : Nat) :
    Memory.read? (m ++ k) j = (m.read? j).or (Memory.read? k j) := by
  induction m with
  | nil => simp [Memory.read?]
  | cons c m ih =>
    obtain ⟨a, d⟩ := c
    simp only [List.cons_append, Memory.read?]
    split <;> simp_all

/-- What is read from the cells of a buffer whose indices meet a test. -/
theorem Memory.read?_filter (m : Memory) (p : Nat → Bool) (j : Nat) :
    Memory.read? (m.filter (fun c => p c.1)) j = if p j then m.read? j else none := by
  induction m with
  | nil => simp [Memory.read?]
  | cons c m ih =>
    obtain ⟨a, d⟩ := c
    simp only [List.filter_cons, Memory.read?]
    by_cases hp : p a = true
    · simp only [hp, if_true, Memory.read?, ih]
      by_cases hj : a = j
      · subst hj; simp [hp]
      · simp [hj]
    · simp only [hp, Bool.false_eq_true, if_false, ih]
      by_cases hj : a = j
      · subst hj; simp [hp]
      · simp [hj]

/-- The copy of R57: below `n` the source's cells, from `n` on the destination's own. -/
theorem Memory.read?_copyLow (n : Nat) (src dst : Memory) (j : Nat) :
    (Memory.copyLow n src dst).read? j = if j < n then src.read? j else dst.read? j := by
  simp only [Memory.copyLow, Memory.read?_append, Memory.read?_filter src (fun a => decide (a < n)),
    Memory.read?_filter dst (fun a => decide (n ≤ a))]
  by_cases h : j < n
  · have : ¬ n ≤ j := by omega
    simp [h, this]
  · have : n ≤ j := by omega
    simp [h, this]

/-- Leaving cells out keeps the indices rising. -/
theorem Memory.risesFrom_filter {m : Memory} {lo : Nat} (p : Host.Cell → Bool)
    (w : Memory.risesFrom lo m = true) : Memory.risesFrom lo (m.filter p) = true := by
  induction m generalizing lo with
  | nil => rfl
  | cons c m ih =>
    obtain ⟨k, d⟩ := c
    simp only [Memory.risesFrom, Bool.and_eq_true, decide_eq_true_eq] at w
    simp only [List.filter_cons]
    split
    · simpa only [Memory.risesFrom, Bool.and_eq_true, decide_eq_true_eq] using ⟨w.1, ih w.2⟩
    · exact Memory.risesFrom_mono (by omega) (ih w.2)

/-- Two rising lists, the second wholly above the first, rise together. -/
theorem Memory.risesFrom_append {m k : Memory} {lo n : Nat} (hm : Memory.risesFrom lo m = true)
    (hn : ∀ c ∈ m, c.1 < n) (hlo : lo ≤ n) (hk : Memory.risesFrom n k = true) :
    Memory.risesFrom lo (m ++ k) = true := by
  induction m generalizing lo with
  | nil => exact Memory.risesFrom_mono hlo hk
  | cons c m ih =>
    obtain ⟨a, d⟩ := c
    simp only [Memory.risesFrom, Bool.and_eq_true, decide_eq_true_eq] at hm
    simp only [List.cons_append, Memory.risesFrom, Bool.and_eq_true, decide_eq_true_eq]
    have ha := hn (a, d) (by simp)
    exact ⟨hm.1, ih hm.2 (fun c hc => hn c (by simp [hc])) ha⟩

/-- The cells at and above `n` of a rising list rise from `n`. -/
theorem Memory.risesFrom_filter_ge {m : Memory} {lo n : Nat} (w : Memory.risesFrom lo m = true) :
    Memory.risesFrom n (m.filter (fun c => decide (n ≤ c.1))) = true := by
  induction m generalizing lo with
  | nil => rfl
  | cons c m ih =>
    obtain ⟨k, d⟩ := c
    simp only [Memory.risesFrom, Bool.and_eq_true, decide_eq_true_eq] at w
    simp only [List.filter_cons]
    split
    · next h =>
      simp only [decide_eq_true_eq] at h
      simp only [Memory.risesFrom, Bool.and_eq_true, decide_eq_true_eq]
      exact ⟨h, Memory.risesFrom_filter _ w.2⟩
    · exact ih w.2

/-- The copy of R57 keeps the canonical form. -/
theorem Memory.wf_copyLow {n : Nat} {src dst : Memory} (hs : src.wf = true) (hd : dst.wf = true) :
    (Memory.copyLow n src dst).wf = true := by
  simp only [Memory.wf, Bool.and_eq_true, List.all_eq_true, decide_eq_true_eq] at hs hd ⊢
  constructor
  · apply Memory.risesFrom_append (n := n)
    · exact Memory.risesFrom_filter _ hs.1
    · intro c hc
      simpa using (List.mem_filter.1 hc).2
    · omega
    · exact Memory.risesFrom_filter_ge hd.1
  · intro c hc
    rcases List.mem_append.1 hc with h | h
    · exact hs.2 c (List.mem_filter.1 h).1
    · exact hd.2 c (List.mem_filter.1 h).1

/-- Bytes laid out from an index rise from it. -/
theorem risesFrom_cellsFrom (i : Nat) (bs : List Byte) : Memory.risesFrom i (cellsFrom i bs) = true := by
  induction bs generalizing i with
  | nil => rfl
  | cons b bs ih => simp [cellsFrom, Memory.risesFrom, ih]

/-- Bytes laid out from an index, read back. -/
theorem read?_cellsFrom (i : Nat) (bs : List Byte) (j : Nat) :
    Memory.read? (cellsFrom i bs) j = if j < i then none else bs[j - i]? := by
  induction bs generalizing i with
  | nil => simp [cellsFrom, Memory.read?]
  | cons b bs ih =>
    simp only [cellsFrom, Memory.read?]
    by_cases h : i = j
    · subst h; simp
    · simp only [h, if_false, ih]
      by_cases h2 : j < i
      · simp [h2, Nat.lt_succ_of_lt h2]
      · have h3 : ¬ j < i + 1 := by omega
        have h4 : j - i = (j - (i + 1)) + 1 := by omega
        simp [h2, h3, h4]

/-- A payload that fits laid out in a buffer is in canonical form. -/
theorem wf_cellsFrom {bs : List Byte} (h : bs.length ≤ Config.maxPayload) :
    Memory.wf (cellsFrom 0 bs) = true := by
  simp only [Memory.wf, Bool.and_eq_true, List.all_eq_true, decide_eq_true_eq]
  refine ⟨risesFrom_cellsFrom 0 bs, ?_⟩
  have key : ∀ (bs : List Byte) (i : Nat) (c : Host.Cell), c ∈ cellsFrom i bs → c.1 < i + bs.length := by
    intro bs
    induction bs with
    | nil => intro i c hc; simp [cellsFrom] at hc
    | cons b bs ih =>
      intro i c hc
      rcases List.mem_cons.1 hc with rfl | hc
      · simp only [List.length_cons]; omega
      · have := ih (i + 1) c hc
        simp only [List.length_cons]; omega
  intro c hc
  have := key bs 0 c hc
  omega

/-- What `MemWrite` of one byte can do: the cell exists and only it changes. -/
theorem memWriteByte_ok {sp : Space} {i : Nat} {v : Byte} {s t : State} (h : memWriteByte sp i v s = .ok t) :
    i < Config.maxPayload ∧ t = s.setMem sp ((s.mem sp).write i v) := by
  simp only [memWriteByte] at h
  split at h
  · next hi => exact ⟨hi, by simpa using h.symm⟩
  · cases h

/-- When `MemWrite` of one byte stops the model: the cell does not exist. -/
theorem memWriteByte_error {sp : Space} {i : Nat} {v : Byte} {s : State} {f : Fault}
    (h : memWriteByte sp i v s = .error f) : ¬ i < Config.maxPayload ∧ f = .noSuchCell sp i := by
  simp only [memWriteByte] at h
  split at h
  · cases h
  · next hi => exact ⟨hi, by simpa using h.symm⟩

/-- What the payload copy can do. -/
theorem copyPayload_ok {n : Nat} {s t : State} (h : copyPayload n s = .ok t) :
    n ≤ Config.maxPayload ∧ t = { s with databuf := Memory.copyLow n s.rxbuf s.databuf } := by
  simp only [copyPayload] at h
  split at h
  · next hn => exact ⟨hn, by simpa using h.symm⟩
  · cases h

end Sys2Proof.Machine
end

