-- ==== Sys2Proof/Laws/PerInstr.lean ====
section
/-!
SUPPORT. Statements made per instruction: the header an instruction encodes to has, under the mask of its row of
spec/opcode_table.json, the row's match value, and its operands stand in the row's source fields.
-/

namespace Sys2Proof.Laws.OpcodeMatch

/-- The match value of the instruction's row; the mask is 0xFFFF in every row (R73, R83). -/
def rowMatch : Instr → HeaderBits
  | .data _ _ _ => 0x0000#96
  | .fin _ _ _ => 0x0001#96
  | .syn _ _ _ => 0x0002#96
  | .ack _ _ _ => 0x0010#96
  | .finAck _ _ _ => 0x0011#96
  | .synAck _ _ _ => 0x0012#96

/-- The encoded header matches the row, and bits 95:64, 63:32 and 31:16 are the header's `seq`, `ack` and `len`. -/
def Statement (i : Instr) : Prop :=
  encodeHeader i &&& 0xFFFF#96 = rowMatch i ∧ Header.ofBits (encodeHeader i) = i.header

/-- The low 16 bits of a packed header are its `flags` field. -/
theorem toBits_mask (h : Header) : h.toBits &&& 0xFFFF#96 = h.flags.setWidth 96 := by
  apply BitVec.eq_of_getLsbD_eq
  intro j hj
  have mask : (0xFFFF#96 : HeaderBits).getLsbD j = decide (j < 16) := by
    rw [show (0xFFFF#96 : HeaderBits) = (BitVec.allOnes 16).setWidth 96 from rfl]
    simp only [BitVec.getLsbD_setWidth, BitVec.getLsbD_allOnes, hj, decide_true, Bool.true_and]
  simp only [BitVec.getLsbD_and, mask, Header.toBits, BitVec.getLsbD_append, BitVec.getLsbD_setWidth, hj, decide_true,
    Bool.true_and]
  by_cases h16 : j < 16
  · simp [h16]
  · simp [h16, BitVec.getLsbD_of_ge h.flags j (by omega)]

theorem data (seq a : Word) (len : Half) : Statement (.data seq a len) := ⟨toBits_mask _, Header.ofBits_toBits _⟩
theorem fin (seq a : Word) (len : Half) : Statement (.fin seq a len) := ⟨toBits_mask _, Header.ofBits_toBits _⟩
theorem syn (seq a : Word) (len : Half) : Statement (.syn seq a len) := ⟨toBits_mask _, Header.ofBits_toBits _⟩
theorem ack (seq a : Word) (len : Half) : Statement (.ack seq a len) := ⟨toBits_mask _, Header.ofBits_toBits _⟩
theorem finAck (seq a : Word) (len : Half) : Statement (.finAck seq a len) := ⟨toBits_mask _, Header.ofBits_toBits _⟩
theorem synAck (seq a : Word) (len : Half) : Statement (.synAck seq a len) := ⟨toBits_mask _, Header.ofBits_toBits _⟩

end Sys2Proof.Laws.OpcodeMatch
end

