-- ==== Sys2Proof/Laws/Units.lean ====
section
/-!
SUPPORT. What the shared operations can do, said once: the deserializer on a byte, the serializer on an acceptance, the
entry into a send state, the send step, an instruction, and a step of the machine.
-/

namespace Sys2Proof.Machine

/-! ## Classification -/

/-- CLASSIFY of an instruction's header: its own kind, but UNKNOWN for a SYN_ACK (R76). DATA needs a payload (R119). -/
theorem classify_header (i : Instr) :
    classify i.header =
      match i with
      | .data _ _ len => if 0 < len.toNat then .data else .unknown
      | .fin _ _ _ => .fin
      | .syn _ _ _ => .syn
      | .ack _ _ _ => .ack
      | .finAck _ _ _ => .finAck
      | .synAck _ _ _ => .unknown := by
  cases i with
  | data seq a len =>
    by_cases h : 0 < len.toNat <;>
      simp [classify, Instr.header, isSyn, isAck, isFin, isFinAck, isData, Config.flagsData, Config.flagsFin,
        Config.flagsSyn, Config.flagsAck, Config.flagsFinAck, h]
  | fin seq a len | syn seq a len | ack seq a len | finAck seq a len | synAck seq a len => rfl

/-- A send state expects nothing. -/
theorem expects_of_isSend {st : FsmState} (h : st.isSend = true) : st.expects = none := by
  cases st <;> first | rfl | cases h

/-- `lenLegal` is the bound 2048. -/
theorem lenLegal_iff (len : Half) : lenLegal len = true ↔ len.toNat ≤ 2048 := by
  exact decide_eq_true_iff

/-! ## The deserializer -/

/-- Header completion (R94), each outcome with its condition. -/
theorem headerComplete_cases (s : State) :
    (2048 < rxLen s ∧ headerComplete s = .raised .lengthError s) ∨
    (rxLen s ≤ 2048 ∧ s.cfgStrict = true ∧ definedFlags (rxHeader s).flags = false ∧
      headerComplete s = .raised .invalidFlags s) ∨
    (rxLen s ≤ 2048 ∧ (s.cfgStrict = true → definedFlags (rxHeader s).flags = true) ∧ rxLen s = 0 ∧
      headerComplete s = .complete (packetComplete s)) ∨
    (rxLen s ≤ 2048 ∧ (s.cfgStrict = true → definedFlags (rxHeader s).flags = true) ∧ rxLen s ≠ 0 ∧
      headerComplete s = .more { s with rxpcnt := 0#12 }) := by
  unfold headerComplete
  rw [show Config.maxPayload = 2048 from rfl]
  by_cases h1 : 2048 < rxLen s
  · exact .inl ⟨h1, by rw [if_pos h1]⟩
  rw [if_neg h1]
  have h1' : rxLen s ≤ 2048 := by omega
  by_cases h2 : (s.cfgStrict && !definedFlags (rxHeader s).flags) = true
  · rw [if_pos h2]
    simp only [Bool.and_eq_true, Bool.not_eq_true'] at h2
    exact .inr (.inl ⟨h1', h2.1, h2.2, rfl⟩)
  · rw [if_neg h2]
    have h2' : s.cfgStrict = true → definedFlags (rxHeader s).flags = true := by
      intro hs
      cases hd : definedFlags (rxHeader s).flags
      · simp [hs, hd] at h2
      · rfl
    by_cases h3 : rxLen s = 0
    · exact .inr (.inr (.inl ⟨h1', h2', h3, by rw [if_pos h3]⟩))
    · exact .inr (.inr (.inr ⟨h1', h2', h3, by rw [if_neg h3]⟩))

/-- The state after a header byte (R93). -/
abbrev afterHeaderByte (b : Byte) (s : State) : State :=
  { s with rxhdr := shiftIn s.rxhdr b, rxhcnt := s.rxhcnt + 1#4 }

/-- A byte in the header phase that is not the twelfth (R93). -/
theorem desByte_header {b : Byte} {s : State} (h : s.rxhcnt.toNat < 11) :
    desByte b s = .more (afterHeaderByte b s) := by
  have h1 : s.rxhcnt.toNat < Config.headerSize := by simp only [Config.headerSize]; omega
  have h2 : s.rxhcnt + 1#4 ≠ 12#4 := by
    intro e
    have := congrArg BitVec.toNat e
    simp only [BitVec.toNat_add, BitVec.toNat_ofNat] at this
    omega
  simp [desByte, desHeaderByte, h1, h2]

/-- The twelfth header byte (R93, R94). -/
theorem desByte_headerLast {b : Byte} {s : State} (h : s.rxhcnt = 11#4) :
    desByte b s = headerComplete (afterHeaderByte b s) := by
  simp [desByte, desHeaderByte, h, Config.headerSize, afterHeaderByte]

/-- The state after a payload byte (R95). -/
abbrev afterPayloadByte (b : Byte) (s : State) : State :=
  { s with rxbuf := s.rxbuf.write s.rxpcnt.toNat b, rxpcnt := s.rxpcnt + 1#12 }

/-- A byte in the payload phase (R95). -/
theorem desByte_payload {b : Byte} {s : State} (h : s.rxhcnt = 12#4) (hp : s.rxpcnt.toNat < rxLen s) :
    desByte b s =
      if s.rxpcnt.toNat < 2048 then
        if s.rxpcnt.toNat + 1 = rxLen s then .complete (packetComplete (afterPayloadByte b s))
        else .more (afterPayloadByte b s)
      else .fault (.noSuchCell .rxbuf s.rxpcnt.toNat) := by
  have h0 : ¬ s.rxhcnt.toNat < Config.headerSize := by simp [h, Config.headerSize]
  unfold desByte
  rw [if_neg h0, if_pos ⟨h, hp⟩]
  simp only [desPayloadByte, storePayloadByte, memWriteByte, Config.maxPayload]
  by_cases hc : s.rxpcnt.toNat < 2048
  · simp only [hc, if_true, setMem_rxbuf, mem_rxbuf]
    have e : (s.rxpcnt + 1#12).toNat = s.rxpcnt.toNat + 1 := by
      simp only [BitVec.toNat_add, BitVec.toNat_ofNat]
      omega
    simp only [e]
    rfl
  · simp [hc]

/-! ## The serializer -/

/-- Entering a send state with a packet that has no payload, TXPLEN being 0: the request passes (R91, R132). -/
theorem enterSend_ok {st : FsmState} {q : Header} {s : State} (hq : q.len = 0#16) (hp : s.txplen = 0#16) :
    enterSend st q s = { s with txhdr := q.toBits, txcnt := 0#12, state := st } := by
  simp [enterSend, serCheck, txHeader, setTxHeader, hq, hp, lenLegal]

/-- Entering a send state with a packet whose length is not TXPLEN: EncodingError in the send state (R91, R180). -/
theorem enterSend_refused {st : FsmState} {q : Header} {s : State} (hp : q.len ≠ s.txplen) :
    enterSend st q s =
      fail .encodingError .none .none { s with txhdr := q.toBits, txcnt := 0#12, state := st } := by
  simp [enterSend, serCheck, txHeader, setTxHeader, hp]

/-- Entering a send state either passes or fails with EncodingError. -/
theorem enterSend_cases (st : FsmState) (q : Header) (s : State) :
    enterSend st q s = { s with txhdr := q.toBits, txcnt := 0#12, state := st } ∨
    enterSend st q s =
      fail .encodingError .none .none { s with txhdr := q.toBits, txcnt := 0#12, state := st } := by
  cases h : serCheck (setTxHeader q { s with txcnt := 0#12, state := st })
  · exact .inr (by simp only [enterSend, h]; rfl)
  · exact .inl (by simp only [enterSend, h]; rfl)

/-- An acceptance of a header byte (R91). -/
theorem serAccept_header {s : State} (h : s.txcnt.toNat < 12) :
    serAccept s =
      if s.txcnt.toNat + 1 = 12 + txLen s then
        .sent { s with txOut := s.txOut ++ [headerByte s.txhdr s.txcnt.toNat], txcnt := 0#12 }
      else .more
        { s with txOut := s.txOut ++ [headerByte s.txhdr s.txcnt.toNat], txcnt := s.txcnt + 1#12 } := by
  simp only [serAccept, txByte, Config.headerSize, h, if_true]
  rfl

/-- What an acceptance can do: it appends the offered byte and moves TXCNT, or the model stops. -/
theorem serAccept_cases (s : State) :
    (∃ b, txByte s = .ok b ∧ serAccept s = .sent { s with txOut := s.txOut ++ [b], txcnt := 0#12 } ∧
      s.txcnt.toNat + 1 = 12 + txLen s) ∨
    (∃ b, txByte s = .ok b ∧ serAccept s = .more { s with txOut := s.txOut ++ [b], txcnt := s.txcnt + 1#12 } ∧
      s.txcnt.toNat + 1 ≠ 12 + txLen s) ∨
    (∃ f, txByte s = .error f ∧ serAccept s = .fault f) := by
  unfold serAccept
  cases h : txByte s with
  | error f => exact .inr (.inr ⟨f, rfl, rfl⟩)
  | ok b =>
    by_cases e : s.txcnt.toNat + 1 = 12 + txLen s
    · exact .inl ⟨b, rfl, by simp only [Config.headerSize, e, if_true]; rfl, e⟩
    · exact .inr (.inl ⟨b, rfl, by simp only [Config.headerSize, e, if_false]; rfl, e⟩)

/-- The SER on an acceptance (R91). -/
@[simp] theorem serEvent_accepted (s : State) : serEvent .accepted s = serAccept s := rfl

/-- The SER on an error of the TX stream (R91). -/
@[simp] theorem serEvent_txErr (s : State) : serEvent .txErr s = .raised .truncatedStream s := rfl

/-- A SER request that is accepted loads the packet and passes the check; every other one is EncodingError (R181). -/
theorem serUnitRequest_ok {p : Packet} {s t : State} (h : serUnitRequest p s = .ok t) :
    p.payload.length < 65536 ∧ serCheck t = true ∧
    t = { s with
      txhdr := p.toHeader.toBits
      txplen := BitVec.ofNat 16 p.payload.length
      txbuf := cellsFrom 0 (p.payload.take Config.maxPayload)
      txcnt := 0#12 } := by
  unfold serUnitRequest at h
  dsimp only at h
  split at h
  · next hc => cases h; exact ⟨hc.1, hc.2, rfl⟩
  · cases h

/-- What a send step can do when it answers a next state. -/
theorem sendStep_next {k : Kind} {nxt : FsmState} {s t : State} (h : sendStep k nxt s = .next t) :
    (txEvent s = none ∧ t = s) ∨
    (txEvent s = some .txErr ∧ t = fail .truncatedStream .none .none s) ∨
    (txEvent s = some .accepted ∧ ∃ b, txByte s = .ok b ∧
      ((s.txcnt.toNat + 1 ≠ 12 + txLen s ∧ t = { s with txOut := s.txOut ++ [b], txcnt := s.txcnt + 1#12 }) ∨
       (s.txcnt.toNat + 1 = 12 + txLen s ∧
        t = sendComplete k nxt { s with txOut := s.txOut ++ [b], txcnt := 0#12 }))) := by
  unfold sendStep at h
  split at h
  · next e => cases h; exact .inl ⟨e, rfl⟩
  · next ev e =>
    cases ev with
    | txErr => cases h; exact .inr (.inl ⟨e, rfl⟩)
    | accepted =>
      refine .inr (.inr ⟨e, ?_⟩)
      rcases serAccept_cases s with ⟨b, hb, hs, hc⟩ | ⟨b, hb, hs, hc⟩ | ⟨f, hb, hs⟩ <;>
        simp only [serEvent_accepted, hs] at h <;> cases h
      · exact ⟨b, hb, .inr ⟨hc, rfl⟩⟩
      · exact ⟨b, hb, .inl ⟨hc, rfl⟩⟩

/-- When a send step stops the model: the offered byte's cell does not exist. -/
theorem sendStep_fault {k : Kind} {nxt : FsmState} {s : State} {f : Fault} (h : sendStep k nxt s = .fault f) :
    txByte s = .error f := by
  unfold sendStep at h
  split at h
  · cases h
  · next ev _ =>
    cases ev with
    | txErr => cases h
    | accepted =>
      rcases serAccept_cases s with ⟨b, hb, hs, hc⟩ | ⟨b, hb, hs, hc⟩ | ⟨f', hb, hs⟩ <;>
        simp only [serEvent_accepted, hs] at h <;> cases h
      exact hb

/-! ## An instruction -/

/-- What an acceptance of a DATA packet can do (R136). -/
theorem acceptData_ok {len : Half} {s t : State} (h : acceptData len s = .ok t) :
    len.toNat ≤ 2048 ∧
    t = enterSend .dataReceived (mkFin s.pnx 0#32).toHeader
      { s with databuf := Memory.copyLow len.toNat s.rxbuf s.databuf, dataLen := len } := by
  unfold acceptData at h
  cases hc : copyPayload len.toNat s with
  | error f => rw [hc] at h; cases h
  | ok s1 =>
    rw [hc] at h
    obtain ⟨hn, rfl⟩ := copyPayload_ok hc
    cases h
    exact ⟨hn, rfl⟩

/-- What an instruction can do when it answers a next state: nothing (the packet is not taken); a rejection; the
refusal of a received SYN_ACK's flags; an acceptance; or a step of sending. -/
theorem exec_next {i : Instr} {s t : State} (h : exec i s = .next t) :
    (t = s ∧ s.state.expects = none) ∨
    (∃ e, s.state.expects = some e ∧ classify i.header ≠ e ∧ t = rejectAs e i.header s) ∨
    (∃ e, s.state.expects = some e ∧ s.cfgStrict = true ∧ t = fail .invalidFlags e .unknown s) ∨
    (s.state = .listening ∧ ∃ seq a len, i = .syn seq a len ∧ t = acceptSyn seq (logReceived i.header s)) ∨
    (s.state = .synAckSent ∧ ∃ seq a len, i = .ack seq a len ∧ t = acceptAck a (logReceived i.header s)) ∨
    (s.state = .established ∧ ∃ seq a len, i = .data seq a len ∧ 0 < len.toNat ∧
      acceptData len (logReceived i.header s) = .ok t) ∨
    (s.state = .finSent ∧ ∃ seq a len, i = .finAck seq a len ∧ t = acceptFinAck (logReceived i.header s)) ∨
    (s.state = .synReceived ∧ sendStep .synAck .synAckSent s = .next t) ∨
    (s.state = .dataReceived ∧ sendStep .fin .finSent s = .next t) := by
  have hk := classify_header i
  cases i with
  | data seq a len =>
    simp only at hk
    simp only [exec, execData] at h
    cases he : s.state.expects with
    | none => rw [he] at h; cases h; exact .inl ⟨rfl, rfl⟩
    | some e =>
      simp only [he] at h
      by_cases hc : classify (Instr.data seq a len).header = e
      · have hc' : classify ⟨seq, a, len, Config.flagsData⟩ = e := hc
        rw [if_pos hc'] at h
        cases ha : acceptData len (logReceived ⟨seq, a, len, Config.flagsData⟩ s) with
        | error f => rw [ha] at h; cases h
        | ok s1 =>
          rw [ha] at h; cases h
          rw [hk] at hc
          have hpos : 0 < len.toNat := by
            rcases Nat.eq_zero_or_pos len.toNat with h0 | h0
            · rw [if_neg (by omega)] at hc
              subst hc
              cases hs : s.state <;> simp [hs, FsmState.expects] at he
            · exact h0
          rw [if_pos hpos] at hc
          subst hc
          have hst : s.state = .established := by
            cases hs : s.state <;> simp [hs, FsmState.expects] at he ⊢
          exact .inr (.inr (.inr (.inr (.inr (.inl ⟨hst, seq, a, len, rfl, hpos, ha⟩)))))
      · have hc' : ¬ classify ⟨seq, a, len, Config.flagsData⟩ = e := hc
        rw [if_neg hc'] at h
        cases h
        exact .inr (.inl ⟨e, rfl, hc, rfl⟩)
  | fin seq a len =>
    simp only [exec, execFin] at h
    split at h
    · next hs => exact .inr (.inr (.inr (.inr (.inr (.inr (.inr (.inr ⟨hs, h⟩)))))))
    · simp only [receiveUnexpected] at h
      cases he : s.state.expects with
      | none => rw [he] at h; cases h; exact .inl ⟨rfl, rfl⟩
      | some e =>
        rw [he] at h; cases h
        refine .inr (.inl ⟨e, rfl, ?_, rfl⟩)
        rw [hk]
        rintro rfl
        cases hs : s.state <;> simp [hs, FsmState.expects] at he
  | syn seq a len =>
    simp only [exec, execSyn, receive] at h
    cases he : s.state.expects with
    | none => rw [he] at h; cases h; exact .inl ⟨rfl, rfl⟩
    | some e =>
      simp only [he, Host.Outcome.next.injEq] at h
      split at h
      · next hc =>
        have hc' : classify (Instr.syn seq a len).header = e := hc
        rw [hk] at hc'
        subst hc'
        have hst : s.state = .listening := by
          cases hs : s.state <;> simp [hs, FsmState.expects] at he ⊢
        exact .inr (.inr (.inr (.inl ⟨hst, seq, a, len, rfl, h.symm⟩)))
      · next hc => exact .inr (.inl ⟨e, rfl, hc, h.symm⟩)
  | ack seq a len =>
    simp only [exec, execAck, receive] at h
    cases he : s.state.expects with
    | none => rw [he] at h; cases h; exact .inl ⟨rfl, rfl⟩
    | some e =>
      simp only [he, Host.Outcome.next.injEq] at h
      split at h
      · next hc =>
        have hc' : classify (Instr.ack seq a len).header = e := hc
        rw [hk] at hc'
        subst hc'
        have hst : s.state = .synAckSent := by
          cases hs : s.state <;> simp [hs, FsmState.expects] at he ⊢
        exact .inr (.inr (.inr (.inr (.inl ⟨hst, seq, a, len, rfl, h.symm⟩))))
      · next hc => exact .inr (.inl ⟨e, rfl, hc, h.symm⟩)
  | finAck seq a len =>
    simp only [exec, execFinAck, receive] at h
    cases he : s.state.expects with
    | none => rw [he] at h; cases h; exact .inl ⟨rfl, rfl⟩
    | some e =>
      simp only [he, Host.Outcome.next.injEq] at h
      split at h
      · next hc =>
        have hc' : classify (Instr.finAck seq a len).header = e := hc
        rw [hk] at hc'
        subst hc'
        have hst : s.state = .finSent := by
          cases hs : s.state <;> simp [hs, FsmState.expects] at he ⊢
        exact .inr (.inr (.inr (.inr (.inr (.inr (.inl ⟨hst, seq, a, len, rfl, h.symm⟩))))))
      · next hc => exact .inr (.inl ⟨e, rfl, hc, h.symm⟩)
  | synAck seq a len =>
    simp only [exec, execSynAck, receiveSynAck] at h
    split at h
    · next hs => exact .inr (.inr (.inr (.inr (.inr (.inr (.inr (.inl ⟨hs, h⟩)))))))
    · split at h
      · next hst =>
        simp only [receiveError] at h
        cases he : s.state.expects with
        | none => rw [he] at h; cases h; exact .inl ⟨rfl, rfl⟩
        | some e => rw [he] at h; cases h; exact .inr (.inr (.inl ⟨e, rfl, hst, rfl⟩))
      · simp only [receiveUnexpected] at h
        cases he : s.state.expects with
        | none => rw [he] at h; cases h; exact .inl ⟨rfl, rfl⟩
        | some e =>
          rw [he] at h; cases h
          refine .inr (.inl ⟨e, rfl, ?_, rfl⟩)
          rw [hk]
          rintro rfl
          cases hs : s.state <;> simp [hs, FsmState.expects] at he

/-- When an instruction stops the model: a DATA packet longer than the buffers, or a send past the end of TXBUF. -/
theorem exec_fault {i : Instr} {s : State} {f : Fault} (h : exec i s = .fault f) :
    (s.state = .established ∧ ∃ seq a len, i = .data seq a len ∧ 2048 < len.toNat) ∨
    (s.state.isSend = true ∧ txByte s = .error f) := by
  cases i with
  | data seq a len =>
    simp only [exec, execData] at h
    cases he : s.state.expects with
    | none => rw [he] at h; cases h
    | some e =>
      simp only [he] at h
      split at h
      · next hc =>
        cases ha : acceptData len (logReceived ⟨seq, a, len, Config.flagsData⟩ s) with
        | ok s1 => rw [ha] at h; cases h
        | error f' =>
          have hlen : 2048 < len.toNat := by
            unfold acceptData copyPayload at ha
            by_cases hl : len.toNat ≤ Config.maxPayload
            · rw [if_pos hl] at ha; cases ha
            · simp only [Config.maxPayload] at hl; omega
          have hk := classify_header (.data seq a len)
          simp only [Instr.header] at hk
          rw [if_pos (by omega)] at hk
          rw [hk] at hc
          subst hc
          refine .inl ⟨?_, seq, a, len, rfl, hlen⟩
          cases hs : s.state <;> simp [hs, FsmState.expects] at he ⊢
      · cases h
  | fin seq a len =>
    simp only [exec, execFin] at h
    split at h
    · next hs => exact .inr ⟨by rw [hs]; rfl, sendStep_fault h⟩
    · simp only [receiveUnexpected] at h; split at h <;> cases h
  | syn seq a len => simp only [exec, execSyn, receive] at h; split at h <;> cases h
  | ack seq a len => simp only [exec, execAck, receive] at h; split at h <;> cases h
  | finAck seq a len => simp only [exec, execFinAck, receive] at h; split at h <;> cases h
  | synAck seq a len =>
    simp only [exec, execSynAck, receiveSynAck] at h
    split at h
    · next hs => exact .inr ⟨by rw [hs]; rfl, sendStep_fault h⟩
    · split at h
      · simp only [receiveError] at h; split at h <;> cases h
      · simp only [receiveUnexpected] at h; split at h <;> cases h

/-- An instruction is never refused. -/
theorem exec_not_refused {i : Instr} {s : State} {r : Refusal} : exec i s ≠ .refused r := by
  intro h
  cases i with
  | data seq a len =>
    simp only [exec, execData] at h
    split at h
    · cases h
    · split at h
      · split at h <;> cases h
      · cases h
  | fin seq a len =>
    simp only [exec, execFin, sendStep, receiveUnexpected] at h
    repeat' split at h
    all_goals cases h
  | syn seq a len => simp only [exec, execSyn, receive] at h; split at h <;> cases h
  | ack seq a len => simp only [exec, execAck, receive] at h; split at h <;> cases h
  | finAck seq a len => simp only [exec, execFinAck, receive] at h; split at h <;> cases h
  | synAck seq a len =>
    simp only [exec, execSynAck, receiveSynAck, sendStep, receiveUnexpected, receiveError] at h
    repeat' split at h
    all_goals cases h

/-! ## The step -/

/-- A step that is not refused is the event of an opened cycle. -/
theorem step_of_begin {s s1 : State} (h : beginCycle s = .ok s1) : step s = runEvent s1 := by
  simp [step, h]

/-- The cycle that a begun cycle opens. -/
theorem beginCycle_ok {s s1 : State} (h : beginCycle s = .ok s1) : s1 = openCycle (nextCycle s) s := by
  simp only [beginCycle] at h
  split at h
  · cases h
  · split at h
    · cases h
    · cases h; rfl

/-- A step that answers a next state began its cycle. -/
theorem step_next {s t : State} (h : step s = .next t) :
    ∃ s1, beginCycle s = .ok s1 ∧ s1 = openCycle (nextCycle s) s ∧ runEvent s1 = .next t := by
  unfold step at h
  cases hb : beginCycle s with
  | error r => rw [hb] at h; cases h
  | ok s1 => rw [hb] at h; exact ⟨s1, rfl, beginCycle_ok hb, h⟩

end Sys2Proof.Machine
end

