-- ==== Sys2Proof/Laws/Steps.lean ====
section
/-!
SUPPORT. What a step of the machine can do, said once: the inversion of the deserializer on a byte, of the effect of an
event, and what no part of a receive step touches.
-/

namespace Sys2Proof.Machine

/-! ## The deserializer, by its result -/

/-- When a byte is taken and the packet is not complete. -/
theorem desByte_more {b : Byte} {s t : State} (h : desByte b s = .more t) :
    (s.rxhcnt.toNat < 11 ∧ t = afterHeaderByte b s) ∨
    (s.rxhcnt = 11#4 ∧ rxLen (afterHeaderByte b s) ≤ 2048 ∧
      (s.cfgStrict = true → definedFlags (rxHeader (afterHeaderByte b s)).flags = true) ∧
      rxLen (afterHeaderByte b s) ≠ 0 ∧ t = { afterHeaderByte b s with rxpcnt := 0#12 }) ∨
    (s.rxhcnt = 12#4 ∧ s.rxpcnt.toNat + 1 < rxLen s ∧ s.rxpcnt.toNat < 2048 ∧ t = afterPayloadByte b s) := by
  rcases Nat.lt_trichotomy s.rxhcnt.toNat 11 with h1 | h1 | h1
  · rw [desByte_header h1] at h; cases h; exact .inl ⟨h1, rfl⟩
  · have h2 : s.rxhcnt = 11#4 := BitVec.eq_of_toNat_eq h1
    rw [desByte_headerLast h2] at h
    rcases headerComplete_cases (afterHeaderByte b s) with ⟨_, e⟩ | ⟨_, _, _, e⟩ | ⟨_, _, _, e⟩ | ⟨a1, a2, a3, e⟩
    · rw [e] at h; cases h
    · rw [e] at h; cases h
    · rw [e] at h; cases h
    · rw [e] at h; cases h; exact .inr (.inl ⟨h2, a1, a2, a3, rfl⟩)
  · by_cases h2 : s.rxhcnt = 12#4 ∧ s.rxpcnt.toNat < rxLen s
    · rw [desByte_payload h2.1 h2.2] at h
      split at h
      · next h3 =>
        split at h
        · cases h
        · next h4 => cases h; exact .inr (.inr ⟨h2.1, by omega, h3, rfl⟩)
      · cases h
    · unfold desByte at h
      rw [if_neg (by simp only [Config.headerSize]; omega), if_neg h2] at h
      cases h

/-- When a byte completes the packet. -/
theorem desByte_complete {b : Byte} {s t : State} (h : desByte b s = .complete t) :
    (s.rxhcnt = 11#4 ∧ rxLen (afterHeaderByte b s) = 0 ∧
      (s.cfgStrict = true → definedFlags (rxHeader (afterHeaderByte b s)).flags = true) ∧
      t = packetComplete (afterHeaderByte b s)) ∨
    (s.rxhcnt = 12#4 ∧ s.rxpcnt.toNat + 1 = rxLen s ∧ s.rxpcnt.toNat < 2048 ∧
      t = packetComplete (afterPayloadByte b s)) := by
  rcases Nat.lt_trichotomy s.rxhcnt.toNat 11 with h1 | h1 | h1
  · rw [desByte_header h1] at h; cases h
  · have h2 : s.rxhcnt = 11#4 := BitVec.eq_of_toNat_eq h1
    rw [desByte_headerLast h2] at h
    rcases headerComplete_cases (afterHeaderByte b s) with ⟨_, e⟩ | ⟨_, _, _, e⟩ | ⟨_, a2, a3, e⟩ | ⟨_, _, _, e⟩
    · rw [e] at h; cases h
    · rw [e] at h; cases h
    · rw [e] at h; cases h; exact .inl ⟨h2, a3, a2, rfl⟩
    · rw [e] at h; cases h
  · by_cases h2 : s.rxhcnt = 12#4 ∧ s.rxpcnt.toNat < rxLen s
    · rw [desByte_payload h2.1 h2.2] at h
      split at h
      · next h3 =>
        split at h
        · next h4 => cases h; exact .inr ⟨h2.1, h4, h3, rfl⟩
        · cases h
      · cases h
    · unfold desByte at h
      rw [if_neg (by simp only [Config.headerSize]; omega), if_neg h2] at h
      cases h

/-- When a byte completes a header that is refused. -/
theorem desByte_raised {b : Byte} {s t : State} {e : ErrCode} (h : desByte b s = .raised e t) :
    s.rxhcnt = 11#4 ∧ t = afterHeaderByte b s ∧
    ((e = .lengthError ∧ 2048 < rxLen t) ∨
     (e = .invalidFlags ∧ rxLen t ≤ 2048 ∧ s.cfgStrict = true ∧ definedFlags (rxHeader t).flags = false)) := by
  rcases Nat.lt_trichotomy s.rxhcnt.toNat 11 with h1 | h1 | h1
  · rw [desByte_header h1] at h; cases h
  · have h2 : s.rxhcnt = 11#4 := BitVec.eq_of_toNat_eq h1
    rw [desByte_headerLast h2] at h
    rcases headerComplete_cases (afterHeaderByte b s) with ⟨a, e⟩ | ⟨a1, a2, a3, e⟩ | ⟨_, _, _, e⟩ | ⟨_, _, _, e⟩
    · rw [e] at h; cases h; exact ⟨h2, rfl, .inl ⟨rfl, a⟩⟩
    · rw [e] at h; cases h; exact ⟨h2, rfl, .inr ⟨rfl, a1, a2, a3⟩⟩
    · rw [e] at h; cases h
    · rw [e] at h; cases h
  · by_cases h2 : s.rxhcnt = 12#4 ∧ s.rxpcnt.toNat < rxLen s
    · rw [desByte_payload h2.1 h2.2] at h
      repeat' split at h
      all_goals cases h
    · unfold desByte at h
      rw [if_neg (by simp only [Config.headerSize]; omega), if_neg h2] at h
      cases h

/-- When a byte stops the model: neither phase, or a missing cell. -/
theorem desByte_fault {b : Byte} {s : State} {f : Fault} (h : desByte b s = .fault f) :
    12 ≤ s.rxhcnt.toNat ∧ (s.rxhcnt ≠ 12#4 ∨ rxLen s ≤ s.rxpcnt.toNat ∨ 2048 ≤ s.rxpcnt.toNat) := by
  rcases Nat.lt_trichotomy s.rxhcnt.toNat 11 with h1 | h1 | h1
  · rw [desByte_header h1] at h; cases h
  · have h2 : s.rxhcnt = 11#4 := BitVec.eq_of_toNat_eq h1
    rw [desByte_headerLast h2] at h
    rcases headerComplete_cases (afterHeaderByte b s) with ⟨_, e⟩ | ⟨_, _, _, e⟩ | ⟨_, _, _, e⟩ | ⟨_, _, _, e⟩ <;>
      (rw [e] at h; cases h)
  · refine ⟨by omega, ?_⟩
    by_cases h2 : s.rxhcnt = 12#4 ∧ s.rxpcnt.toNat < rxLen s
    · rw [desByte_payload h2.1 h2.2] at h
      split at h
      · split at h <;> cases h
      · next h3 => exact .inr (.inr (by omega))
    · by_cases h3 : s.rxhcnt = 12#4
      · exact .inr (.inl (by simp only [h3, true_and] at h2; omega))
      · exact .inl h3

/-- What taking a byte leaves alone, whatever it leads to: all but RXHDR, RXHCNT, RXPCNT and RXBUF. -/
structure SameButReceiveUnit (s t : State) : Prop where
  state : t.state = s.state
  txhdr : t.txhdr = s.txhdr
  txcnt : t.txcnt = s.txcnt
  ackm : t.ackm = s.ackm
  cfgStrict : t.cfgStrict = s.cfgStrict
  cfgIss : t.cfgIss = s.cfgIss
  err : t.err = s.err
  irs : t.irs = s.irs
  pnx : t.pnx = s.pnx
  dataLen : t.dataLen = s.dataLen
  databuf : t.databuf = s.databuf
  txbuf : t.txbuf = s.txbuf
  txplen : t.txplen = s.txplen
  epClosePulse : t.epClosePulse = s.epClosePulse
  logPulse : t.logPulse = s.logPulse
  rxIn : t.rxIn = s.rxIn
  txOut : t.txOut = s.txOut
  trace : t.trace = s.trace
  pins : t.pins = s.pins
  script : t.script = s.script
  tick : t.tick = s.tick

/-- The deserializer writes the receive unit only. -/
theorem desByte_more_same {b : Byte} {s t : State} (h : desByte b s = .more t) : SameButReceiveUnit s t := by
  rcases desByte_more h with ⟨_, rfl⟩ | ⟨_, _, _, _, rfl⟩ | ⟨_, _, _, rfl⟩ <;> constructor <;> rfl

/-- The deserializer writes the receive unit only. -/
theorem desByte_complete_same {b : Byte} {s t : State} (h : desByte b s = .complete t) : SameButReceiveUnit s t := by
  rcases desByte_complete h with ⟨_, _, _, rfl⟩ | ⟨_, _, _, rfl⟩ <;> constructor <;> rfl

/-- The deserializer writes the receive unit only. -/
theorem desByte_raised_same {b : Byte} {s t : State} {e : ErrCode} (h : desByte b s = .raised e t) :
    SameButReceiveUnit s t := by
  obtain ⟨_, rfl, _⟩ := desByte_raised h
  constructor <;> rfl

/-! ## The event -/

/-- The events of a receive state come from the RX stream. -/
theorem eventOf_byte {s : State} {b : Byte} (h : eventOf s = some (.byte b)) :
    s.pins.rst = false ∧ (∃ e, s.state.expects = some e) ∧ ∃ bs, s.rxIn = b :: bs := by
  unfold eventOf at h
  split at h
  · cases h
  · next h1 =>
    split at h
    · cases h
    · split at h
      · next h2 =>
        refine ⟨by simpa using h1, ?_, ?_⟩
        · simpa [rxReady, FsmState.isReceive, Option.isSome_iff_exists] using h2
        · unfold rxEvent at h
          split at h
          · next c bs hc => cases h; exact ⟨bs, hc⟩
          · split at h <;> cases h
      · split at h
        · cases ht : txEvent s <;> rw [ht] at h <;> cases h
        · cases h

/-- The end of the stream is an event of a receive state. -/
theorem eventOf_eos {s : State} (h : eventOf s = some .eos) : ∃ e, s.state.expects = some e := by
  unfold eventOf at h
  split at h
  · cases h
  · split at h
    · cases h
    · split at h
      · next h2 => simpa [rxReady, FsmState.isReceive, Option.isSome_iff_exists] using h2
      · split at h
        · cases ht : txEvent s <;> rw [ht] at h <;> cases h
        · cases h

/-- The TX events are events of a send state. -/
theorem eventOf_tx {s : State} {e : TxEvent} (h : eventOf s = some (.tx e)) :
    s.state.isSend = true ∧ txEvent s = some e := by
  unfold eventOf at h
  split at h
  · cases h
  · split at h
    · cases h
    · split at h
      · unfold rxEvent at h
        split at h
        · cases h
        · split at h <;> cases h
      · split at h
        · next h2 =>
          cases ht : txEvent s with
          | none => rw [ht] at h; cases h
          | some e' => rw [ht] at h; cases h; exact ⟨h2, rfl⟩
        · cases h

/-- `start` is accepted where the block is not busy. -/
theorem eventOf_start {s : State} (h : eventOf s = some .start) : s.pins.start = true ∧ busy s = false := by
  unfold eventOf at h
  split at h
  · cases h
  · split at h
    · next h2 =>
      simp only [Bool.and_eq_true, startReady, Bool.not_eq_true'] at h2
      exact h2
    · split at h
      · unfold rxEvent at h
        split at h
        · cases h
        · split at h <;> cases h
      · split at h
        · cases ht : txEvent s <;> rw [ht] at h <;> cases h
        · cases h

/-- Reset is the event where `rst` is 1. -/
theorem eventOf_reset {s : State} (h : eventOf s = some .reset) : s.pins.rst = true := by
  unfold eventOf at h
  split at h
  · next h1 => exact h1
  · split at h
    · cases h
    · split at h
      · unfold rxEvent at h
        split at h
        · cases h
        · split at h <;> cases h
      · split at h
        · cases ht : txEvent s <;> rw [ht] at h <;> cases h
        · cases h

/-- What the delivery of a packet can do (R131): the instruction its header decodes to, or the rejection of a packet of
no row. -/
theorem deliver_next {s t : State} {e : Kind} (he : s.state.expects = some e) (h : deliver s = .next t) :
    (∃ i, decodeHeader s.rxhdr = .ok i ∧ i.header = rxHeader s ∧ i.wf = true ∧ exec i s = .next t) ∨
    ((∃ d, decodeHeader s.rxhdr = .error d) ∧ t = rejectAs e (rxHeader s) s) := by
  unfold deliver at h
  cases hd : decodeHeader s.rxhdr with
  | ok i =>
    rw [hd] at h
    obtain ⟨h1, h2⟩ := decodeFields_ok hd
    exact .inl ⟨i, rfl, h1, h2, h⟩
  | error d =>
    rw [hd] at h
    simp only [receiveUnknown, receiveUnexpected, he] at h
    cases h
    exact .inr ⟨⟨d, rfl⟩, rfl⟩

/-- What an event can do when it answers a next state. -/
theorem runEvent_next {s t : State} (h : runEvent s = .next t) :
    (eventOf s = none ∧ t = s) ∨
    (eventOf s = some .reset ∧ t = resetBlock s) ∨
    (eventOf s = some .start ∧ t = startBlock s) ∨
    (∃ b, eventOf s = some (.byte b) ∧ desByte b (takeRx s) = .more t) ∨
    (∃ b e c s2, eventOf s = some (.byte b) ∧ s.state.expects = some e ∧
      desByte b (takeRx s) = .raised c s2 ∧ t = fail c e (desErrorAct c) s2) ∨
    (∃ b e s2, eventOf s = some (.byte b) ∧ s.state.expects = some e ∧ s2.state = s.state ∧
      desByte b (takeRx s) = .complete s2 ∧ deliver s2 = .next t) ∨
    (∃ e, eventOf s = some .eos ∧ s.state.expects = some e ∧ t = fail .truncatedStream e .none s) ∨
    (s.state.isSend = true ∧ exec (sendInstr s) s = .next t) := by
  unfold runEvent at h
  cases he : eventOf s with
  | none => rw [he] at h; cases h; exact .inl ⟨rfl, rfl⟩
  | some ev =>
    rw [he] at h
    cases ev with
    | reset => cases h; exact .inr (.inl ⟨rfl, rfl⟩)
    | start => cases h; exact .inr (.inr (.inl ⟨rfl, rfl⟩))
    | byte b =>
      obtain ⟨_, ⟨e, hx⟩, _⟩ := eventOf_byte he
      simp only at h
      cases hd : desByte b (takeRx s) with
      | more s2 => rw [hd] at h; cases h; exact .inr (.inr (.inr (.inl ⟨b, rfl, hd⟩)))
      | complete s2 =>
        rw [hd] at h
        exact .inr (.inr (.inr (.inr (.inr (.inl ⟨b, e, s2, rfl, hx, (desByte_complete_same hd).state, hd, h⟩)))))
      | raised c s2 =>
        rw [hd] at h
        have : s2.state.expects = some e := by rw [(desByte_raised_same hd).state]; exact hx
        simp only [afterByte, receiveError, this] at h
        cases h
        exact .inr (.inr (.inr (.inr (.inl ⟨b, e, c, s2, rfl, hx, hd, rfl⟩))))
      | fault f => rw [hd] at h; cases h
    | eos =>
      obtain ⟨e, hx⟩ := eventOf_eos he
      simp only [receiveError, hx] at h
      cases h
      exact .inr (.inr (.inr (.inr (.inr (.inr (.inl ⟨e, rfl, hx, rfl⟩))))))
    | tx e => exact .inr (.inr (.inr (.inr (.inr (.inr (.inr ⟨(eventOf_tx he).1, h⟩))))))

/-- In a send state the packet in TXHDR is sent by one send step. -/
theorem exec_sendInstr {s : State} (h : s.state.isSend = true) :
    (s.state = .synReceived ∧ exec (sendInstr s) s = sendStep .synAck .synAckSent s) ∨
    (s.state = .dataReceived ∧ exec (sendInstr s) s = sendStep .fin .finSent s) := by
  cases hs : s.state <;> simp [hs, FsmState.isSend] at h
  · exact .inl ⟨rfl, by simp [sendInstr, hs, exec, execSynAck]⟩
  · exact .inr ⟨rfl, by simp [sendInstr, hs, exec, execFin]⟩

/-- A header of legal length that is of no row of the opcode table is of kind UNKNOWN (R75, R121). -/
theorem classify_of_decode_error {h : Header} {d : DecodeError} (hl : h.len.toNat ≤ 2048)
    (hd : decodeFields h = .error d) :
    classify h = .unknown := by
  have := (lenLegal_iff h.len).2 hl
  unfold decodeFields at hd
  rw [if_neg (by simp [this])] at hd
  repeat' split at hd
  all_goals first
    | (cases hd; done)
    | (simp_all [classify, isSyn, isAck, isFin, isFinAck, isData, Config.flagsData,
        Config.flagsFin, Config.flagsSyn, Config.flagsAck, Config.flagsFinAck, Config.flagsSynAck])

/-- A completed packet has a legal length: R94 let it pass. -/
theorem desByte_complete_len {b : Byte} {s t : State} (h : desByte b s = .complete t) : rxLen t ≤ 2048 := by
  rcases desByte_complete h with ⟨_, h, _, rfl⟩ | ⟨_, h, h2, rfl⟩
  · have : rxLen (packetComplete (afterHeaderByte b s)) = rxLen (afterHeaderByte b s) := rfl
    omega
  · have : rxLen (packetComplete (afterPayloadByte b s)) = rxLen s := rfl
    omega

/-- The delivery of a packet in a receive state, inverted: a rejection (R183), InvalidFlagsError for a strict 0x0012
(R184), or one of the four acceptances (R133, R135, R136, R138). -/
theorem deliver_cases {s t : State} {e : Kind} (hlen : rxLen s ≤ 2048) (he : s.state.expects = some e)
    (h : deliver s = .next t) :
    (classify (rxHeader s) ≠ e ∧ t = rejectAs e (rxHeader s) s) ∨
    (s.cfgStrict = true ∧ t = fail .invalidFlags e .unknown s) ∨
    (s.state = .listening ∧ classify (rxHeader s) = .syn ∧
      t = acceptSyn (rxHeader s).seq (logReceived (rxHeader s) s)) ∨
    (s.state = .synAckSent ∧ classify (rxHeader s) = .ack ∧
      t = acceptAck (rxHeader s).ack (logReceived (rxHeader s) s)) ∨
    (s.state = .established ∧ classify (rxHeader s) = .data ∧ 0 < rxLen s ∧
      acceptData (rxHeader s).len (logReceived (rxHeader s) s) = .ok t) ∨
    (s.state = .finSent ∧ classify (rxHeader s) = .finAck ∧ t = acceptFinAck (logReceived (rxHeader s) s)) := by
  rcases deliver_next he h with ⟨i, hd, hi, hw, hx⟩ | ⟨⟨d, hd⟩, rfl⟩
  · rcases exec_next hx with ⟨rfl, h1⟩ | ⟨e', h1, h2, rfl⟩ | ⟨e', h1, h2, rfl⟩ | ⟨h1, a, b, c, rfl, rfl⟩ |
      ⟨h1, a, b, c, rfl, rfl⟩ | ⟨h1, a, b, c, rfl, h2, h3⟩ | ⟨h1, a, b, c, rfl, rfl⟩ | ⟨h1, _⟩ | ⟨h1, _⟩
    · rw [he] at h1; cases h1
    · rw [he] at h1; cases h1; rw [hi] at h2 ⊢; exact .inl ⟨h2, rfl⟩
    · rw [he] at h1; cases h1; exact .inr (.inl ⟨h2, rfl⟩)
    · have := classify_header (.syn a b c); rw [hi] at this ⊢
      refine .inr (.inr (.inl ⟨h1, this, ?_⟩)); rw [← hi]; rfl
    · have := classify_header (.ack a b c); rw [hi] at this ⊢
      refine .inr (.inr (.inr (.inl ⟨h1, this, ?_⟩))); rw [← hi]; rfl
    · have := classify_header (.data a b c); rw [hi] at this h3
      simp only [h2, if_true] at this
      refine .inr (.inr (.inr (.inr (.inl ⟨h1, this, ?_, ?_⟩))))
      · rw [rxLen, ← hi]; exact h2
      · rw [show (rxHeader s).len = c by rw [← hi]; rfl]; exact h3
    · have := classify_header (.finAck a b c); rw [hi] at this ⊢
      exact .inr (.inr (.inr (.inr (.inr ⟨h1, this, rfl⟩))))
    · rw [h1] at he; cases he
    · rw [h1] at he; cases he
  · refine .inl ⟨?_, rfl⟩
    rw [classify_of_decode_error hlen hd]
    rintro rfl
    cases hs : s.state <;> simp [hs, FsmState.expects] at he

end Sys2Proof.Machine
end

