-- ==== Sys2Proof/Laws/Streams.lean ====
section
/-!
SUPPORT. Whole streams: what runs of bytes do to the deserializer, what the serializer has sent after some acceptances,
and runs of steps that receive bytes.
-/

namespace Sys2Proof.Machine

/-! ## The deserializer on many bytes -/

/-- Header bytes before the twelfth are shifted in and counted (R93). -/
theorem desRun_header (hs : List Byte) : ∀ (bs : List Byte) (eos : Bool) (s : State), s.rxhcnt.toNat + hs.length < 12 →
    desRun (hs ++ bs) eos s =
      desRun bs eos { s with rxhdr := hs.foldl shiftIn s.rxhdr, rxhcnt := s.rxhcnt + BitVec.ofNat 4 hs.length } := by
  induction hs with
  | nil => intro bs eos s h; simp
  | cons b hs ih =>
    intro bs eos s h
    simp only [List.length_cons] at h
    have h1 : s.rxhcnt.toNat < 11 := by omega
    simp only [List.cons_append, desRun, desByte_header h1]
    have h2 : (s.rxhcnt + 1#4).toNat = s.rxhcnt.toNat + 1 := by
      simp only [BitVec.toNat_add, BitVec.toNat_ofNat]; omega
    rw [ih bs eos (afterHeaderByte b s) (by simp only [h2]; omega)]
    congr 1
    simp only [List.foldl_cons, List.length_cons]
    congr 1
    apply BitVec.eq_of_toNat_eq
    simp only [BitVec.toNat_add, BitVec.toNat_ofNat]; omega

/-- Payload bytes, from any point of the payload: they run out, or the packet is delivered with each byte at its index in
RXBUF (R95, R96). -/
theorem desRun_payload (bs : List Byte) :
    ∀ (eos : Bool) (s : State), s.rxhcnt = 12#4 → s.rxpcnt.toNat < rxLen s → rxLen s ≤ 2048 →
      (bs.length < rxLen s - s.rxpcnt.toNat ∧
        ∃ t, desRun bs eos s = (if eos then .raised .truncatedStream t [] else .waiting t)) ∨
      (rxLen s - s.rxpcnt.toNat ≤ bs.length ∧
        ∃ t, desRun bs eos s = .delivered t (bs.drop (rxLen s - s.rxpcnt.toNat)) ∧
          t.rxhdr = s.rxhdr ∧ t.rxhcnt = 0#4 ∧ t.rxpcnt = 0#12 ∧
          (∀ j, t.rxbuf.read? j =
            if s.rxpcnt.toNat ≤ j ∧ j < rxLen s then bs[j - s.rxpcnt.toNat]? else s.rxbuf.read? j)) := by
  induction bs with
  | nil =>
    intro eos s h1 h2 h3
    exact .inl ⟨by simp; omega, s, rfl⟩
  | cons b bs ih =>
    intro eos s h1 h2 h3
    have h4 : s.rxpcnt.toNat < 2048 := by omega
    have h5 : (s.rxpcnt + 1#12).toNat = s.rxpcnt.toNat + 1 := by
      simp only [BitVec.toNat_add, BitVec.toNat_ofNat]; omega
    by_cases h6 : s.rxpcnt.toNat + 1 = rxLen s
    · right
      refine ⟨by simp; omega, packetComplete (afterPayloadByte b s), ?_, rfl, rfl, rfl, ?_⟩
      · simp only [desRun, desByte_payload h1 h2, if_pos h4, if_pos h6]
        rw [show rxLen s - s.rxpcnt.toNat = 1 by omega]; rfl
      · intro j
        show (s.rxbuf.write s.rxpcnt.toNat b).read? j = _
        rw [Memory.read?_write]
        by_cases hj : j = s.rxpcnt.toNat
        · subst hj; simp; omega
        · rw [if_neg hj, if_neg (by omega)]
    · have e : desRun (b :: bs) eos s = desRun bs eos (afterPayloadByte b s) := by
        simp only [desRun, desByte_payload h1 h2, if_pos h4, if_neg h6]
      have hl : rxLen (afterPayloadByte b s) = rxLen s := rfl
      have hp : (afterPayloadByte b s).rxpcnt.toNat = s.rxpcnt.toNat + 1 := h5
      rcases ih eos (afterPayloadByte b s) h1 (by rw [hl, hp]; omega) h3 with ⟨q1, t, q2⟩ | ⟨q1, t, q2, q3, q4, q5, q6⟩
      · rw [hl, hp] at q1
        exact .inl ⟨by simp; omega, t, by rw [e, q2]⟩
      · rw [hl, hp] at q1 q2 q6
        refine .inr ⟨by simp; omega, t, ?_, q3, q4, q5, ?_⟩
        · rw [e, q2, show rxLen s - s.rxpcnt.toNat = (rxLen s - (s.rxpcnt.toNat + 1)) + 1 by omega, List.drop_succ_cons]
        · intro j
          rw [q6]
          show (if _ then _ else (s.rxbuf.write s.rxpcnt.toNat b).read? j) = _
          rw [Memory.read?_write]
          by_cases hj : j = s.rxpcnt.toNat
          · subst hj; rw [if_neg (by omega), if_pos rfl, if_pos (by omega)]; simp
          · by_cases hj2 : s.rxpcnt.toNat + 1 ≤ j ∧ j < rxLen s
            · rw [if_pos hj2, if_pos (by omega), show j - s.rxpcnt.toNat = (j - (s.rxpcnt.toNat + 1)) + 1 by omega]; rfl
            · rw [if_neg hj2, if_neg hj, if_neg (by omega)]

/-! ## The serializer on many acceptances -/

/-- The bytes of a packed header are the header's bytes (R23, R72). -/
theorem headerBitsBytes_toBits (h : Header) : headerBitsBytes h.toBits = h.bytes := by
  obtain ⟨a, b, c, d⟩ := h
  simp only [headerBitsBytes, List.range, List.range.loop, List.map, Header.bytes, bytesBe32, bytesBe16,
    List.cons_append, List.nil_append, List.cons.injEq, and_true]
  and_intros <;>
  · apply BitVec.eq_of_getLsbD_eq
    intro i hi
    simp only [headerByte, Header.toBits, BitVec.getLsbD_extractLsb', BitVec.getLsbD_append, hi, decide_true, Bool.true_and]
    repeat' split
    all_goals first
      | omega
      | rfl
      | (congr 1; omega)

/-- Byte `i` of a packed header is byte `i` of the header. -/
theorem headerByte_toBits (h : Header) (i : Nat) (hi : i < 12) : h.bytes[i]? = some (headerByte h.toBits i) := by
  rw [← headerBitsBytes_toBits, headerBitsBytes, List.getElem?_map, List.getElem?_range hi]; rfl

/-- The byte the serializer offers is byte TXCNT of the packet (R32, R91). -/
theorem txByte_of_packet (p : Packet) (hw : p.payload.length = p.len.toNat) (hl : p.len.toNat ≤ 2048) (s : State)
    (h1 : s.txhdr = p.toHeader.toBits) (h2 : s.txbuf = cellsFrom 0 p.payload) (h3 : s.txcnt.toNat < 12 + p.len.toNat) :
    ∃ b, txByte s = .ok b ∧ (p.toHeader.bytes ++ p.payload)[s.txcnt.toNat]? = some b := by
  by_cases h : s.txcnt.toNat < 12
  · refine ⟨headerByte s.txhdr s.txcnt.toNat, by rw [txByte, if_pos h], ?_⟩
    rw [List.getElem?_append_left (by simpa using h), h1]; exact headerByte_toBits _ _ h
  · have h4 : s.txcnt.toNat - 12 < p.payload.length := by omega
    refine ⟨p.payload[s.txcnt.toNat - 12], ?_, ?_⟩
    · rw [txByte, if_neg h, memReadByte, if_pos (by show s.txcnt.toNat - 12 < 2048; omega)]
      simp only [cellByte, State.mem, h2, read?_cellsFrom]
      rw [if_neg (by omega), Nat.sub_zero, List.getElem?_eq_getElem (by exact h4)]; rfl
    · rw [List.getElem?_append_right (by simp; omega)]; simp only [Header.bytes_length]; rw [List.getElem?_eq_getElem h4]

/-- Taking one more element of a list from an index on. -/
theorem take_drop_succ {l : List Byte} {k n : Nat} {b : Byte} (h : l[k]? = some b) :
    (l.drop k).take (n+1) = b :: (l.drop (k+1)).take n := by
  have hk : k < l.length := by
    rcases Nat.lt_or_ge k l.length with h' | h'
    · exact h'
    · rw [List.getElem?_eq_none h'] at h; cases h
  rw [List.drop_eq_getElem_cons hk, List.take_succ_cons]
  rw [List.getElem?_eq_getElem hk] at h; cases h; rfl

/-- After some acceptances, fewer than the packet's bytes, the serializer has appended as many bytes of the packet. -/
theorem serRun_take (p : Packet) (hw : p.payload.length = p.len.toNat) (hl : p.len.toNat ≤ 2048) :
    ∀ (n : Nat) (s : State), s.txhdr = p.toHeader.toBits → s.txbuf = cellsFrom 0 p.payload →
      s.txcnt.toNat + n < 12 + p.len.toNat →
      serRun (List.replicate n .accepted) s = .more
        { s with
          txcnt := s.txcnt + BitVec.ofNat 12 n
          txOut := s.txOut ++ ((p.toHeader.bytes ++ p.payload).drop s.txcnt.toNat).take n } := by
  intro n
  induction n with
  | zero => intro s _ _ _; simp [serRun]
  | succ n ih =>
    intro s h1 h2 h3
    obtain ⟨b, q1, q2⟩ := txByte_of_packet p hw hl s h1 h2 (by omega)
    have htl : txLen s = p.len.toNat := by simp [txLen, txHeader, h1]
    have hc : (s.txcnt + 1#12).toNat = s.txcnt.toNat + 1 := by
      simp only [BitVec.toNat_add, BitVec.toNat_ofNat]; omega
    rw [List.replicate_succ, serRun]
    simp only [serEvent_accepted, serAccept, q1]
    rw [htl, if_neg (by show ¬ s.txcnt.toNat + 1 = 12 + p.len.toNat; omega)]
    simp only
    rw [ih _ (by exact h1) (by exact h2) (by show (s.txcnt + 1#12).toNat + n < _; omega)]
    congr 1
    have e1 : s.txcnt + 1#12 + BitVec.ofNat 12 n = s.txcnt + BitVec.ofNat 12 (n+1) := by
      apply BitVec.eq_of_toNat_eq
      simp only [BitVec.toNat_add, BitVec.toNat_ofNat]; omega
    rw [take_drop_succ q2]
    simp only [appendTx, e1, hc]
    simp [List.append_assoc]

/-- A run of the serializer that has not ended goes on with the events that follow. -/
theorem serRun_append {es es' : List TxEvent} {s t : State} (h : serRun es s = .more t) :
    serRun (es ++ es') s = serRun es' t := by
  induction es generalizing s with
  | nil => cases h; rfl
  | cons e es ih =>
    simp only [serRun, List.cons_append] at h ⊢
    split at h
    · exact ih h
    all_goals cases h

/-! ## Runs of steps -/

/-- A run goes on with the next state. -/
theorem run_next {s t : State} (k : Nat) (h : step s = .next t) : Sys2Proof.core.run (k + 1) s = Sys2Proof.core.run k t := by
  have : Sys2Proof.core.step s = .next t := h
  simp only [Host.Core.run]; rw [this]

/-- A run of one step is the step. -/
theorem run_last {s : State} {o : Outcome} (h : step s = o) : Sys2Proof.core.run 1 s = o := by
  have : Sys2Proof.core.step s = o := h
  simp only [Host.Core.run]; rw [this]; cases o <;> rfl

/-- The coming cycles bring no reset, no other endpoint and no new byte. -/
abbrev Steady (s : State) : Prop := ∀ c ∈ s.script, c.connect = false ∧ c.rst = false ∧ c.arrive = []

/-- The next of such cycles. -/
theorem steady_head {s : State} (h : Steady s) :
    (nextCycle s).connect = false ∧ (nextCycle s).rst = false ∧ (nextCycle s).arrive = [] := by
  unfold nextCycle
  cases hs : s.script with
  | nil => exact ⟨rfl, rfl, rfl⟩
  | cons c cs => exact h c (by simp [hs])

/-- A step that takes a byte in a receive state (R54): the deserializer runs on the state of the cycle, whose block is as
before. -/
theorem step_takes_byte {s : State} {b : Byte} {bs : List Byte} (h : Steady s) (hr : rxReady s = true)
    (hi : s.rxIn = b :: bs) :
    beginCycle s = .ok (openCycle (nextCycle s) s) ∧ (takeRx (openCycle (nextCycle s) s)).rxIn = bs ∧
      step s = afterByte (desByte b (takeRx (openCycle (nextCycle s) s))) := by
  obtain ⟨q1, q2, q3⟩ := steady_head h
  have hb : beginCycle s = .ok (openCycle (nextCycle s) s) := by simp [beginCycle, q1, q3]
  have hin : (openCycle (nextCycle s) s).rxIn = b :: bs := by
    show heldBytes (nextCycle s) s ++ (nextCycle s).arrive = _
    rw [q3, heldBytes, q1]; simp [hi]
  refine ⟨hb, by show (openCycle (nextCycle s) s).rxIn.tail = bs; rw [hin]; rfl, ?_⟩
  rw [step_of_begin hb, runEvent]
  have hrr : rxReady (openCycle (nextCycle s) s) = true := hr
  have hst : startReady (openCycle (nextCycle s) s) = false := by
    simp [startReady, busy, FsmState.isBusy, show s.state.isReceive = true from hr]
  have he : eventOf (openCycle (nextCycle s) s) = some (.byte b) := by
    simp only [eventOf, hst, hrr, rxEvent, hin]
    rw [show (openCycle (nextCycle s) s).pins.rst = false from q2]; simp
  rw [he]

end Sys2Proof.Machine
end

