-- ==== Sys2Proof/Tests/Slice0.lean ====
section
/-!
SUPPORT. Tests. Expected values are those of spec/95_test_vectors.md (V-ENC, V-DEC, V-CL, V-FSM, V-REJ, V-ERR) or are
written out by hand from the layout of spec/30_encoding.md R71, R72. After the tests, one witness for each statement
with hypotheses: a state and operands that meet all of them.
-/

namespace Sys2Proof.Tests

open Sys2Proof Sys2Proof.Machine

/-- A property of the next state an outcome answers; false of a fault or a refusal. -/
def after (o : Outcome) (p : State → Bool) : Bool :=
  match o with
  | .next t => p t
  | .fault _ => false
  | .refused _ => false

/-- The state after reset, with STATE as given. -/
def at' (st : FsmState) : State := { State.reset with state := st }

/-! ## Well-formedness -/

theorem test_wf_refuses_data_without_payload : (Instr.data 101#32 1#32 0#16).wf = false := by decide
theorem test_wf_refuses_data_over_limit : (Instr.data 101#32 1#32 2049#16).wf = false := by decide
theorem test_wf_refuses_control_over_limit :
    (Instr.syn 0#32 0#32 2049#16).wf = false ∧ (Instr.ack 0#32 0#32 65535#16).wf = false ∧
    (Instr.fin 0#32 0#32 2049#16).wf = false ∧ (Instr.finAck 0#32 0#32 2049#16).wf = false := by decide
theorem test_wf_refuses_syn_ack_with_payload : (Instr.synAck 0#32 101#32 1#16).wf = false := by decide
theorem test_wf_admits_the_limit : (Instr.data 101#32 1#32 2048#16).wf = true ∧
    (Instr.synAck 0#32 101#32 0#16).wf = true := by decide
theorem test_packet_wf_refuses_length_mismatch :
    Packet.wellFormed ⟨⟨101#32, 1#32, 5#16, 0#16⟩, [0x68#8, 0x65#8, 0x6C#8, 0x6C#8]⟩ = false := by decide
theorem test_packet_wf_refuses_over_limit :
    Packet.wellFormed ⟨⟨101#32, 1#32, 2049#16, 0#16⟩, []⟩ = false := by decide
theorem test_round_trip_refuses_undefined_flags :
    Packet.validForRoundTrip true ⟨⟨1#32, 2#32, 0#16, 0x0102#16⟩, []⟩ = false ∧
    Packet.validForRoundTrip false ⟨⟨1#32, 2#32, 0#16, 0x0102#16⟩, []⟩ = true := by decide

/-! ## Decoding: one word of every row, bit by bit (R71), and its bytes (V-ENC) -/

/-- `seq` 95:64 = 100, `ack` 63:32 = 0, `len` 31:16 = 0, `flags` 15:0 = 0x0002. -/
theorem test_decode_syn_word :
    decodeTableWord 96 (100 * 2 ^ 64 + 0 * 2 ^ 32 + 0 * 2 ^ 16 + 0x0002) = some (.syn 100#32 0#32 0#16) := by decide
theorem test_decode_ack_word :
    decodeTableWord 96 (101 * 2 ^ 64 + 1 * 2 ^ 32 + 0 * 2 ^ 16 + 0x0010) = some (.ack 101#32 1#32 0#16) := by decide
theorem test_decode_data_word :
    decodeTableWord 96 (101 * 2 ^ 64 + 1 * 2 ^ 32 + 5 * 2 ^ 16 + 0x0000) = some (.data 101#32 1#32 5#16) := by decide
theorem test_decode_fin_word :
    decodeTableWord 96 (101 * 2 ^ 64 + 0 * 2 ^ 32 + 0 * 2 ^ 16 + 0x0001) = some (.fin 101#32 0#32 0#16) := by decide
theorem test_decode_fin_ack_word :
    decodeTableWord 96 (106 * 2 ^ 64 + 102 * 2 ^ 32 + 4 * 2 ^ 16 + 0x0011) = some (.finAck 106#32 102#32 4#16) := by
  decide
theorem test_decode_syn_ack_word :
    decodeTableWord 96 (0 * 2 ^ 64 + 101 * 2 ^ 32 + 0 * 2 ^ 16 + 0x0012) = some (.synAck 0#32 101#32 0#16) := by decide

/-- V-ENC 9: SYN_ACK(seq=0x1000, ack=0x80000000). -/
theorem test_encode_syn_ack_bytes : encode (.synAck 0x1000#32 0x80000000#32 0#16) =
    [0x00#8, 0x00#8, 0x10#8, 0x00#8, 0x80#8, 0x00#8, 0x00#8, 0x00#8, 0x00#8, 0x00#8, 0x00#8, 0x12#8] := by decide
/-- V-DEC 2: the header of PKT(0x01020304, 0x05060708, 3, 0x0000), and what follows it. -/
theorem test_decode_data_bytes :
    (decode [0x01#8, 0x02#8, 0x03#8, 0x04#8, 0x05#8, 0x06#8, 0x07#8, 0x08#8, 0x00#8, 0x03#8, 0x00#8, 0x00#8, 0xAA#8]).toOption
      = some (.data 0x01020304#32 0x05060708#32 3#16, [0xAA#8]) := by decide

/-- The refusals of the decoder, each by its name. -/
theorem test_decode_refuses_undefined_flags :
    decodeFields ⟨1#32, 2#32, 0#16, 0x0102#16⟩ = .error .undefinedFlags ∧
    decodeFields ⟨1#32, 2#32, 0#16, 0x0003#16⟩ = .error .undefinedFlags ∧
    decodeFields ⟨1#32, 2#32, 0#16, 0x0013#16⟩ = .error .undefinedFlags := ⟨rfl, rfl, rfl⟩
theorem test_decode_refuses_over_limit : decodeFields ⟨1#32, 2#32, 2049#16, 0x0102#16⟩ = .error .lengthOverLimit := rfl
theorem test_decode_refuses_data_without_payload :
    decodeFields ⟨101#32, 1#32, 0#16, 0x0000#16⟩ = .error .dataWithoutPayload := rfl
theorem test_decode_refuses_syn_ack_with_payload :
    decodeFields ⟨0#32, 101#32, 1#16, 0x0012#16⟩ = .error .synAckWithPayload := rfl
theorem test_decode_refuses_short_header : decode [0x00#8, 0x00#8, 0x00#8] = .error .headerIncomplete := rfl

/-! ## The codec (V-ENC, V-DEC, V-CL) -/

theorem test_encode_hello :
    (encodePacket ⟨⟨101#32, 1#32, 5#16, 0#16⟩, [0x68#8, 0x65#8, 0x6C#8, 0x6C#8, 0x6F#8]⟩).toOption =
      some [0x00#8, 0x00#8, 0x00#8, 0x65#8, 0x00#8, 0x00#8, 0x00#8, 0x01#8, 0x00#8, 0x05#8, 0x00#8, 0x00#8,
        0x68#8, 0x65#8, 0x6C#8, 0x6C#8, 0x6F#8] := by decide
/-- V-DEC 14: length before flags. -/
theorem test_decode_length_first :
    decodePacket [0x00#8, 0x00#8, 0x00#8, 0x01#8, 0x00#8, 0x00#8, 0x00#8, 0x02#8, 0xFF#8, 0xFF#8, 0x01#8, 0x02#8] false true
      = .error .lengthError := by decide
/-- V-DEC 16. -/
theorem test_decode_truncated :
    decodePacket [0x00#8, 0x00#8, 0x00#8, 0x01#8, 0x00#8, 0x00#8, 0x00#8, 0x02#8, 0x00#8, 0x04#8, 0x01#8, 0x02#8, 0xAA#8]
      true false = .error .truncatedStream := by decide
/-- V-CL. -/
theorem test_classify :
    classify ⟨0#32, 0#32, 0#16, 0x0000#16⟩ = .unknown ∧ classify ⟨0#32, 0#32, 2048#16, 0x0000#16⟩ = .data ∧
    classify ⟨0#32, 0#32, 7#16, 0x0001#16⟩ = .fin ∧ classify ⟨0#32, 0#32, 3#16, 0x0002#16⟩ = .syn ∧
    classify ⟨0#32, 0#32, 0#16, 0x0012#16⟩ = .unknown ∧ classify ⟨0#32, 0#32, 4#16, 0x0100#16⟩ = .unknown := by decide

/-- R91, R182: the SER taken alone, an error of the TX stream after two acceptances. -/
theorem test_ser_alone_tx_error :
    (match serUnitRequest ⟨⟨101#32, 1#32, 1#16, 0#16⟩, [0x68#8]⟩ State.reset with
      | .ok t =>
        match serRun [.accepted, .accepted, .txErr] t with
        | .raised e u => decide (e = .truncatedStream ∧ u.txOut = [0x00#8, 0x00#8])
        | _ => false
      | .error _ => false) = true := by decide
/-- Log entry 13: a payload whose length TXPLEN cannot hold. -/
theorem test_ser_alone_refuses_what_txplen_cannot_hold (payload : List Byte) (h : payload.length = 65536) :
    serUnitRequest ⟨⟨101#32, 1#32, 0#16, 0#16⟩, payload⟩ State.reset = .error .encodingError := by
  simp [serUnitRequest, h]
/-- R34: TXPLEN is 0 after reset. -/
theorem test_reset_clears_txplen :
    after (step { State.reset with txplen := 5#16, script := [{ Cycle.quiet with rst := true }] })
      (fun t => t.txplen = 0#16) = true := by decide

/-! ## The instructions (V-FSM, V-REJ, V-ERR) -/

/-- V-FSM 2. -/
theorem test_syn_accepted :
    after (exec (.syn 0x7FFFFFFF#32 9#32 0#16) { at' .listening with cfgIss := 0x1000#32 }) (fun t =>
      t.state = .synReceived ∧ t.irs = 0x7FFFFFFF#32 ∧ t.pnx = 0x80000000#32 ∧
        t.txhdr = 0x000010008000000000000012#96) = true := by decide
/-- V-REJ: SYN in FIN_SENT. -/
theorem test_syn_rejected :
    after (exec (.syn 1#32 2#32 0#16) (at' .finSent)) (fun t =>
      t.state = .failed ∧ t.err = ⟨.unexpectedPacketKind, .finSent, .finAck, .syn⟩) = true := by decide
/-- V-FSM 8 and 6. -/
theorem test_ack_accepted :
    after (exec (.ack 0#32 0#32 0#16) { at' .synAckSent with cfgIss := 0xFFFFFFFF#32 }) (fun t =>
      t.state = .established ∧ t.ackm) = true ∧
    after (exec (.ack 101#32 7#32 0#16) (at' .synAckSent)) (fun t => t.state = .established ∧ !t.ackm) = true := by
  decide
/-- V-REJ: ACK in LISTENING. -/
theorem test_ack_rejected :
    after (exec (.ack 101#32 1#32 0#16) (at' .listening)) (fun t =>
      t.state = .failed ∧ t.err = ⟨.unexpectedPacketKind, .listening, .syn, .ack⟩) = true := by decide
/-- V-FSM 10, with cells of an earlier lifecycle in both buffers. -/
theorem test_data_accepted :
    after (exec (.data 0#32 0#32 1#16) { at' .established with
        pnx := 0x80000000#32, rxbuf := [(0, 0x5A#8), (1, 0x11#8)], databuf := [(0, 0xEE#8), (1, 0xEF#8)] })
      (fun t => t.state = .dataReceived ∧ t.dataLen = 1#16 ∧ t.databuf = [(0, 0x5A#8), (1, 0xEF#8)] ∧
        t.txhdr = 0x800000000000000000000001#96) = true := by decide
/-- V-REJ: DATA in SYN_ACK_SENT. -/
theorem test_data_rejected :
    after (exec (.data 101#32 1#32 5#16) (at' .synAckSent)) (fun t =>
      t.err = ⟨.unexpectedPacketKind, .synAckSent, .ack, .data⟩ ∧ t.dataLen = 0#16) = true := by decide
/-- V-FSM 12. -/
theorem test_fin_ack_accepted :
    after (exec (.finAck 106#32 102#32 0#16) (at' .finSent)) (fun t =>
      t.state = .closed ∧ t.epClosePulse ∧
        t.trace = [.log ⟨false, .finAck, 106#32, 102#32, 0#16, 0x0011#16⟩, .epClose]) = true := by decide
/-- V-REJ: FIN_ACK in ESTABLISHED. -/
theorem test_fin_ack_rejected :
    after (exec (.finAck 0#32 0#32 0#16) (at' .established)) (fun t =>
      t.err = ⟨.unexpectedPacketKind, .established, .data, .finAck⟩) = true := by decide
/-- V-REJ: FIN in SYN_ACK_SENT, the source's example. -/
theorem test_fin_rejected :
    after (exec (.fin 101#32 1#32 0#16) (at' .synAckSent)) (fun t =>
      t.err = ⟨.unexpectedPacketKind, .synAckSent, .ack, .fin⟩ ∧ t.epClosePulse) = true := by decide
/-- V-FSM 11, the twelfth `Accepted`. -/
theorem test_fin_sent :
    after (exec (.fin 101#32 0#32 0#16) { at' .dataReceived with
        txhdr := 0x000000650000000000000001#96, txcnt := 11#12, pins := { Pins.zero with txReady := true } })
      (fun t => t.state = .finSent ∧ t.txcnt = 0#12 ∧ t.txOut = [0x01#8] ∧
        t.logPulse = some ⟨true, .fin, 101#32, 0#32, 0#16, 0x0001#16⟩) = true := by decide
/-- V-FSM 4: the eighth byte of the SYN_ACK. -/
theorem test_syn_ack_byte :
    after (exec (.synAck 0#32 101#32 0#16) { at' .synReceived with
        txhdr := 0x000000000000006500000012#96, txcnt := 7#12, pins := { Pins.zero with txReady := true } })
      (fun t => t.state = .synReceived ∧ t.txcnt = 8#12 ∧ t.txOut = [0x65#8] ∧ t.logPulse = none) = true := by decide
/-- V-ERR 11 and 9: 0x0012 received. -/
theorem test_syn_ack_received :
    after (exec (.synAck 0#32 0#32 0#16) (at' .listening)) (fun t =>
      t.err = ⟨.unexpectedPacketKind, .listening, .syn, .unknown⟩ ∧ t.logPulse.isSome) = true ∧
    after (exec (.synAck 0#32 0#32 0#16) { at' .listening with cfgStrict := true }) (fun t =>
      t.err = ⟨.invalidFlags, .listening, .syn, .unknown⟩ ∧ t.logPulse = none) = true := by decide

/-! ## Steps -/

/-- V-ERR 10: the twelfth header byte completes len = 2049; RXHCNT stays 12 (P5). -/
theorem test_step_length_error :
    after (step { at' .established with
        rxhdr := 0x000000006500000001080100#96, rxhcnt := 11#4, rxIn := [0x00#8, 0x77#8] })
      (fun t => t.err = ⟨.lengthError, .established, .data, .none⟩ ∧ t.rxhcnt = 12#4 ∧ t.rxIn = [0x77#8]) = true := by
  decide
/-- V-ERR 2: end of stream with eleven header bytes taken. -/
theorem test_step_end_of_stream :
    after (step { at' .listening with rxhcnt := 11#4, script := [{ Cycle.quiet with rxEos := true }] })
      (fun t => t.err = ⟨.truncatedStream, .listening, .syn, .none⟩ ∧ t.rxhcnt = 11#4) = true := by decide
/-- The third payload byte of V-DEC 2 is the last: it lands in RXBUF[2] and both counters are cleared. -/
theorem test_step_last_payload_byte :
    after (step { at' .finSent with
        rxhdr := 0x010203040506070800030011#96, rxhcnt := 12#4, rxpcnt := 2#12, rxbuf := [(0, 0xAA#8), (1, 0xBB#8)]
        rxIn := [0xCC#8, 0xDD#8] })
      (fun t => t.state = .closed ∧ t.rxbuf = [(0, 0xAA#8), (1, 0xBB#8), (2, 0xCC#8)] ∧ t.rxhcnt = 0#4 ∧
        t.rxpcnt = 0#12 ∧ t.rxIn = [0xDD#8]) = true := by decide
/-- A word placed where the step fetches is run by the next step, for every row. -/
theorem test_placed_words_run :
    after (step (State.reset.withFetchWord 96 0x000000640000000000000002)) (fun t => t.irs = 100#32) = true ∧
    after (step (State.reset.withFetchWord 96 0x000000650000000100000010)) (fun t => t.ackm) = true ∧
    after (step (State.reset.withFetchWord 96 0x000000650000000100020000)) (fun t =>
      t.state = .dataReceived ∧ t.databuf = [(0, 0#8), (1, 0#8)]) = true ∧
    after (step (State.reset.withFetchWord 96 0x000000650000000000000001)) (fun t => t.state = .finSent) = true ∧
    after (step (State.reset.withFetchWord 96 0x0000006A0000006600000011)) (fun t => t.state = .closed) = true ∧
    after (step (State.reset.withFetchWord 96 0x000000000000006500000012)) (fun t => t.state = .synAckSent) = true := by
  decide

/-! ## Witnesses: the hypotheses of each statement can be met together -/

/-- "hello" (spec/95_test_vectors.md). -/
def hello : List Byte := [0x68#8, 0x65#8, 0x6C#8, 0x6C#8, 0x6F#8]

/-- DATA(seq=101, ack=1, "hello"). -/
def helloPacket : Packet := ⟨⟨101#32, 1#32, 5#16, 0x0000#16⟩, hello⟩

/-- A well-formed packet with undefined flags, V-ENC 10. -/
def oddPacket : Packet := ⟨⟨1#32, 2#32, 0#16, 0x0102#16⟩, []⟩

/-- LISTENING with eleven bytes of SYN(seq=100, ack=0) taken and the twelfth on offer. -/
def lastSynByte : State :=
  { at' .listening with rxhdr := 0x000000006400000000000000#96, rxhcnt := 11#4, rxIn := [0x02#8, 0x33#8] }

/-- ESTABLISHED in the middle of the payload of `helloPacket`, the next byte on offer. -/
def midPayload : State :=
  { at' .established with
    rxhdr := 0x000000650000000100050000#96
    rxhcnt := 12#4
    rxpcnt := 3#12
    rxbuf := [(0, 0x68#8), (1, 0x65#8), (2, 0x6C#8)]
    irs := 100#32
    pnx := 101#32
    ackm := true
    rxIn := [0x6C#8, 0x6F#8] }

/-- ESTABLISHED with the last payload byte of `helloPacket` on offer. -/
def lastPayload : State :=
  { midPayload with
    rxpcnt := 4#12, rxbuf := [(0, 0x68#8), (1, 0x65#8), (2, 0x6C#8), (3, 0x6C#8)], rxIn := [0x6F#8] }

/-- SYN_RECEIVED with seven bytes of the SYN_ACK accepted, the transport ready. -/
def sendingSynAck : State :=
  { at' .synReceived with
    txhdr := 0x000000000000006500000012#96
    txcnt := 7#12
    irs := 100#32
    pnx := 101#32
    script := [{ Cycle.quiet with txReady := true }] }

/-- DATA_RECEIVED with "hello" recorded and eleven bytes of the FIN accepted, the transport ready. -/
def sendingFin : State :=
  { at' .dataReceived with
    txhdr := 0x000000650000000000000001#96
    txcnt := 11#12
    irs := 100#32
    pnx := 101#32
    dataLen := 5#16
    databuf := cellsFrom 0 hello
    rxbuf := cellsFrom 0 hello
    script := [{ Cycle.quiet with txReady := true }] }

/-- CLOSED after `sendingFin`'s lifecycle. -/
def closedState : State := { sendingFin with state := .closed, txcnt := 0#12, script := [] }

/-- FAILED in SYN_ACK_SENT, P2. -/
def failedState : State := { at' .failed with err := ⟨.unexpectedPacketKind, .synAckSent, .ack, .fin⟩, irs := 100#32 }

theorem witness_inv_midPayload : Inv midPayload :=
  ⟨by decide, by decide, by decide, by decide, by decide, by decide, by decide, by decide, by decide, by decide⟩
theorem witness_inv_sendingSynAck : Inv sendingSynAck :=
  ⟨by decide, by decide, by decide, by decide, by decide, by decide, by decide, by decide, by decide, by decide⟩
theorem witness_inv_sendingFin : Inv sendingFin :=
  ⟨by decide, by decide, by decide, by decide, by decide, by decide, by decide, by decide, by decide, by decide⟩

theorem witness_InstructionsDecodeFromTheirEncoding :
    (Instr.data 101#32 1#32 1#16).wf = true ∧ (Instr.data 101#32 1#32 2048#16).wf = true ∧
    (Instr.fin 1#32 2#32 2048#16).wf = true ∧ (Instr.syn 1#32 2#32 0#16).wf = true ∧
    (Instr.ack 1#32 2#32 3#16).wf = true ∧ (Instr.finAck 1#32 2#32 2048#16).wf = true ∧
    (Instr.synAck 1#32 2#32 0#16).wf = true := by decide
theorem witness_DecodedInstructionsAreTheBytesRead :
    decode (helloPacket.toHeader.bytes ++ hello) = .ok (.data 101#32 1#32 5#16, hello) := rfl
theorem witness_CodecRoundTrip :
    helloPacket.validForRoundTrip true = true ∧ oddPacket.validForRoundTrip false = true ∧
    oddPacket.wellFormed = true ∧ definedFlags oddPacket.flags = false := by decide
theorem witness_CodecBoundary :
    (List.replicate 2048 0xA5#8).length = 2048 ∧ (List.replicate 2049 0xA5#8).length = 2049 :=
  ⟨List.length_replicate, List.length_replicate⟩
theorem witness_DecodeConsumesExactlyThePacket :
    decodePacket (helloPacket.toHeader.bytes ++ hello ++ [0xDD#8]) false true = .ok helloPacket [0xDD#8] := rfl
theorem witness_HelpersMakeTheirRecords :
    2048 < (List.replicate 2049 0#8).length ∧ (List.replicate 2049 0#8).length ≤ 65535 ∧
    (List.replicate 65535 0#8).length ≤ 65535 ∧ 65535 < (List.replicate 65536 0#8).length := by
  simp only [List.length_replicate]; decide
theorem witness_DeserializerAgreesWithDecode :
    State.reset.rxhcnt = 0#4 ∧ State.reset.rxpcnt = 0#12 ∧
    decodePacket (helloPacket.toHeader.bytes ++ hello) false State.reset.cfgStrict = .ok helloPacket [] ∧
    decodePacket (helloPacket.toHeader.bytes ++ [0x68#8]) true State.reset.cfgStrict = .error .truncatedStream ∧
    decodePacket (helloPacket.toHeader.bytes ++ [0x68#8]) false State.reset.cfgStrict = .blocked :=
  ⟨rfl, rfl, rfl, rfl, rfl⟩
theorem witness_SerializerAgreesWithEncode :
    encodePacket helloPacket = .ok (helloPacket.toHeader.bytes ++ hello) ∧
    (helloPacket.toHeader.bytes ++ hello).length = 17 ∧
    encodePacket ⟨⟨101#32, 1#32, 4#16, 0#16⟩, hello⟩ = .error .encodingError :=
  ⟨rfl, rfl, rfl⟩
theorem witness_HeaderRegistersAreIndependent : HeaderReg.rxhLen ≠ HeaderReg.txhLen := by decide
theorem witness_BufferWriteThenRead :
    0 < 2048 ∧ 2047 < 2048 ∧ 2048 ≤ 2048 ∧ (Space.rxbuf ≠ Space.databuf ∨ 5 ≠ 5) ∧ BuffersWf sendingFin := by decide
theorem witness_OutputPortsByState :
    txValid sendingSynAck = true ∧ sendingSynAck.txcnt.toNat < 12 ∧ txValid sendingFin = true ∧
    sendingFin.txcnt.toNat < 12 ∧
    (emitLog ⟨true, .fin, 101#32, 0#32, 0#16, 1#16⟩ sendingFin).logPulse =
      some ⟨true, .fin, 101#32, 0#32, 0#16, 1#16⟩ := by decide
theorem witness_HostReadsTheRecordedCell :
    (0#11).toNat < closedState.dataLen.toNat ∧ closedState.databuf.read? (0#11).toNat = some 0x68#8 ∧
    (4#11).toNat < closedState.dataLen.toNat ∧ closedState.databuf.read? (4#11).toNat = some 0x6F#8 := by decide
theorem witness_ResultByState :
    done sendingFin = false ∧ failedState.state = .failed ∧ closedState.state = .closed ∧
    4 < closedState.dataLen.toNat ∧ closedState.databuf.read? 4 = some 0x6F#8 := by decide
theorem witness_SynIsAccepted :
    lastSynByte.state = .listening ∧ lastSynByte.txplen = 0#16 ∧ midPayload.state.expects = some .data ∧
    Kind.data ≠ .syn := by decide
theorem witness_AckIsAccepted :
    (at' .synAckSent).state = .synAckSent ∧ midPayload.state.expects = some .data ∧ Kind.data ≠ .ack := by decide
theorem witness_DataIsAccepted :
    midPayload.state = .established ∧ midPayload.txplen = 0#16 ∧ 0 < (1#16).toNat ∧ (1#16).toNat ≤ 2048 ∧
    0 < (2048#16).toNat ∧ (2048#16).toNat ≤ 2048 ∧ BuffersWf midPayload ∧
    lastSynByte.state.expects = some .syn ∧ Kind.syn ≠ .data ∧ midPayload.state.expects = some .data ∧
    (0#16).toNat = 0 := by decide
theorem witness_FinAckIsAccepted :
    (at' .finSent).state = .finSent ∧ midPayload.state.expects = some .data ∧ Kind.data ≠ .finAck := by decide

/-- `sendingSynAck` and `sendingFin` with the transport ready in the present cycle. -/
def readyPins : Pins := { Pins.zero with txReady := true }

theorem witness_SynAckIsSent :
    sendingSynAck.state = .synReceived ∧ readyPins.txErr = false ∧ readyPins.txReady = true ∧
    { sendingSynAck with pins := readyPins }.txcnt.toNat + 1 ≠ 12 + (txHeader sendingSynAck).len.toNat ∧
    { sendingSynAck with txcnt := 11#12 }.txcnt.toNat + 1 = 12 + (txHeader sendingSynAck).len.toNat := by decide
theorem witness_FinIsSent :
    sendingFin.state = .dataReceived ∧ readyPins.txErr = false ∧ readyPins.txReady = true ∧
    { sendingFin with pins := readyPins }.txcnt.toNat + 1 = 12 + (txHeader sendingFin).len.toNat ∧
    { sendingFin with txcnt := 0#12 }.txcnt.toNat + 1 ≠ 12 + (txHeader sendingFin).len.toNat := by decide

/-- The ports with an error of the TX stream. -/
def errPins : Pins := { Pins.zero with txErr := true, txReady := true }

theorem witness_SendErrorIsTruncatedStream :
    errPins.txErr = true ∧ { sendingSynAck with pins := errPins }.state = .synReceived ∧
    { sendingFin with pins := errPins }.state = .dataReceived := by decide
theorem witness_SendWaitsUnchanged :
    sendingSynAck.pins.txErr = false ∧ sendingSynAck.pins.txReady = false ∧ sendingSynAck.state = .synReceived ∧
    sendingFin.pins.txErr = false ∧ sendingFin.pins.txReady = false ∧ sendingFin.state = .dataReceived := by decide
theorem witness_OtherKindsAreRejected :
    (at' .synAckSent).state.expects = some .ack ∧ classify (Instr.fin 101#32 1#32 0#16).header ≠ .ack ∧
    classify (Instr.data 101#32 1#32 0#16).header ≠ .ack ∧ classify (Instr.syn 1#32 0#32 0#16).header ≠ .ack ∧
    classify (Instr.finAck 1#32 0#32 0#16).header ≠ .ack ∧ classify (Instr.synAck 0#32 0#32 0#16).header ≠ .ack ∧
    (at' .synAckSent).cfgStrict = false ∧
    (at' .listening).state.expects = some .syn ∧ classify (Instr.ack 101#32 1#32 0#16).header ≠ .syn ∧
    definedFlags (Instr.ack 101#32 1#32 0#16).header.flags = true := by decide
theorem witness_ReceivedSynAckIsInvalidFlagsIfStrict :
    { at' .finSent with cfgStrict := true }.state.expects = some .finAck ∧
    { at' .finSent with cfgStrict := true }.cfgStrict = true ∧ (0#16).toNat ≤ 2048 ∧ (2048#16).toNat ≤ 2048 := by decide
theorem witness_PacketsAreNotTakenElsewhere :
    closedState.state.expects = none ∧ closedState.state ≠ .synReceived ∧ closedState.state ≠ .dataReceived ∧
    sendingFin.state.expects = none ∧ sendingFin.state ≠ .synReceived ∧
    ∀ a b c, Instr.synAck 0#32 101#32 0#16 ≠ .fin a b c :=
  ⟨by decide, by decide, by decide, by decide, by decide, fun _ _ _ h => by cases h⟩
theorem witness_DataLongerThanTheBufferStops : midPayload.state = .established ∧ 2048 < (2049#16).toNat := by decide
theorem witness_SendRequestIsCheckedFirst :
    { at' .listening with txplen := 1#16 }.state = .listening ∧ { at' .listening with txplen := 1#16 }.txplen ≠ 0#16 := by
  decide

theorem witness_StepRunsTheReceivedPacket :
    ∃ s1 s2, beginCycle lastSynByte = .ok s1 ∧ eventOf s1 = some (.byte 0x02#8) ∧
      desByte 0x02#8 (takeRx s1) = .complete s2 ∧ decodeHeader s2.rxhdr = .ok (.syn 100#32 0#32 0#16) :=
  ⟨_, _, rfl, rfl, rfl, rfl⟩
theorem witness_StepRunsTheReceivedPacket_payload :
    ∃ s1 s2, beginCycle lastPayload = .ok s1 ∧ eventOf s1 = some (.byte 0x6F#8) ∧
      desByte 0x6F#8 (takeRx s1) = .complete s2 ∧ decodeHeader s2.rxhdr = .ok (.data 101#32 1#32 5#16) :=
  ⟨_, _, rfl, rfl, rfl, rfl⟩
theorem witness_StepRunsThePacketBeingSent :
    ∃ s1, beginCycle sendingFin = .ok s1 ∧ s1.state.isSend = true ∧ s1.pins.rst = false := ⟨_, rfl, rfl, rfl⟩
theorem witness_PacketBeingSentIsDecodedFromTxhdr :
    (Inv sendingSynAck ∧ sendingSynAck.state.isSend = true) ∧ (Inv sendingFin ∧ sendingFin.state.isSend = true) :=
  ⟨⟨witness_inv_sendingSynAck, rfl⟩, witness_inv_sendingFin, rfl⟩
/-- Undefined flags with CFG.STRICT 0. -/
theorem witness_StepRejectsUnknownPackets :
    ∃ s1 s2, beginCycle { lastSynByte with rxhdr := 0x000000000100000002000001#96 } = .ok s1 ∧
      eventOf s1 = some (.byte 0x02#8) ∧
      desByte 0x02#8 (takeRx s1) = .complete s2 ∧ classify (rxHeader s2) = .unknown ∧
      s2.state.expects = some .syn ∧ s2.cfgStrict = false := ⟨_, _, rfl, rfl, rfl, rfl, rfl, rfl⟩
/-- The flags 0x0000 without payload, with CFG.STRICT 1 (P6). -/
theorem witness_StepRejectsUnknownPackets_strict :
    ∃ s1 s2, beginCycle { lastSynByte with
          rxhdr := 0x000000006500000001000000#96, rxIn := [0x00#8], cfgStrict := true } = .ok s1 ∧
      eventOf s1 = some (.byte 0x00#8) ∧ desByte 0x00#8 (takeRx s1) = .complete s2 ∧
      classify (rxHeader s2) = .unknown ∧ definedFlags (rxHeader s2).flags = true ∧ s2.state.expects = some .syn :=
  ⟨_, _, rfl, rfl, rfl, rfl, rfl, rfl⟩
theorem witness_StepShiftsAHeaderByte :
    (∃ s1, beginCycle { lastSynByte with rxhcnt := 0#4 } = .ok s1 ∧ eventOf s1 = some (.byte 0x02#8) ∧
      s1.rxhcnt.toNat < 11) ∧
    (∃ s1, beginCycle { lastSynByte with rxhcnt := 10#4 } = .ok s1 ∧ eventOf s1 = some (.byte 0x02#8) ∧
      s1.rxhcnt.toNat < 11) := ⟨⟨_, rfl, rfl, by decide⟩, ⟨_, rfl, rfl, by decide⟩⟩
/-- The four cases of header completion: `len` 2049; 0x0012 with CFG.STRICT 1; `len` 2048; `len` 0. -/
theorem witness_StepChecksTheCompletedHeader :
    (∃ s1, beginCycle lastSynByte = .ok s1 ∧ eventOf s1 = some (.byte 0x02#8) ∧ s1.rxhcnt = 11#4 ∧
      s1.state.expects = some .syn) ∧
    2048 < (Header.ofBits (shiftIn 0x000000006500000001080100#96 0x00#8)).len.toNat ∧
    definedFlags (Header.ofBits (shiftIn 0x000000000000000065000000#96 0x12#8)).flags = false ∧
    (Header.ofBits (shiftIn 0x000000006500000001080000#96 0x00#8)).len.toNat = 2048 ∧
    (Header.ofBits (shiftIn lastSynByte.rxhdr 0x02#8)).len.toNat = 0 :=
  ⟨⟨_, rfl, rfl, rfl, rfl⟩, by decide, by decide, by decide, by decide⟩
theorem witness_StepStoresAPayloadByte :
    (∃ s1, beginCycle midPayload = .ok s1 ∧ eventOf s1 = some (.byte 0x6C#8) ∧ s1.rxhcnt = 12#4 ∧
      s1.rxpcnt.toNat + 1 < rxLen s1 ∧ rxLen s1 ≤ 2048) ∧
    (∃ s1, beginCycle { midPayload with rxhdr := 0x000000650000000108000000#96, rxpcnt := 2046#12 } = .ok s1 ∧
      eventOf s1 = some (.byte 0x6C#8) ∧ s1.rxhcnt = 12#4 ∧ s1.rxpcnt.toNat + 1 < rxLen s1 ∧ rxLen s1 ≤ 2048) :=
  ⟨⟨_, rfl, rfl, rfl, by decide, by decide⟩, ⟨_, rfl, rfl, rfl, by decide, by decide⟩⟩
theorem witness_StepEndOfStreamIsTruncated :
    ∃ s1, beginCycle { midPayload with rxIn := [], script := [{ Cycle.quiet with rxEos := true }] } = .ok s1 ∧
      eventOf s1 = some .eos ∧ s1.state.expects = some .data := ⟨_, rfl, rfl, rfl⟩

/-- A cycle in which the host connects an endpoint and starts. -/
def startCycle : Cycle := { Cycle.quiet with connect := true, start := true, cfgStrict := true, cfgIss := 0x1000#32 }

theorem witness_StepStartsALifecycle :
    (∃ s1, beginCycle { State.reset with script := [startCycle] } = .ok s1 ∧ s1.pins.rst = false ∧
      s1.pins.start = true ∧ s1.state = .idle) ∧
    (∃ s1, beginCycle { closedState with script := [startCycle] } = .ok s1 ∧ s1.pins.rst = false ∧
      s1.pins.start = true ∧ s1.state = .closed) ∧
    (∃ s1, beginCycle { failedState with script := [startCycle] } = .ok s1 ∧ s1.pins.rst = false ∧
      s1.pins.start = true ∧ s1.state = .failed) := ⟨⟨_, rfl, rfl, rfl, rfl⟩, ⟨_, rfl, rfl, rfl, rfl⟩, ⟨_, rfl, rfl, rfl, rfl⟩⟩
theorem witness_StepResets :
    ∃ s1, beginCycle { midPayload with script := [{ Cycle.quiet with rst := true }] } = .ok s1 ∧ s1.pins.rst = true :=
  ⟨_, rfl, rfl⟩
theorem witness_StepWaitsWithoutAnEvent :
    ∃ s1, beginCycle { midPayload with rxIn := [] } = .ok s1 ∧ eventOf s1 = none := ⟨_, rfl, rfl⟩
theorem witness_EventPriorities :
    errPins.rst = false ∧ midPayload.pins.rst = false ∧ rxReady midPayload = true ∧
    midPayload.rxIn = 0x6C#8 :: [0x6F#8] ∧ rxReady { midPayload with rxIn := [] } = true ∧
    { Pins.zero with rxEos := true }.rxEos = true ∧ { Pins.zero with start := true }.rxEos = false ∧
    { Pins.zero with start := true }.rst = false ∧ txValid sendingFin = true ∧ errPins.txErr = true ∧
    readyPins.txErr = false ∧ readyPins.txReady = true ∧ Pins.zero.txErr = false ∧ Pins.zero.txReady = false ∧
    busy closedState = false ∧ closedState.pins.start = false := by
  decide
/-- Both broken contracts, and neither. -/
theorem witness_StepRefusesBrokenContractsOnly :
    (∃ r, step { midPayload with script := [startCycle] } = .refused r) ∧
    (∃ r, step { midPayload with
        rxIn := [], pins := { Pins.zero with rxEos := true }, script := [{ Cycle.quiet with arrive := [0x00#8] }] }
      = .refused r) ∧
    (∃ t, step midPayload = .next t) := ⟨⟨_, rfl⟩, ⟨_, rfl⟩, ⟨_, rfl⟩⟩
theorem witness_StreamedPacketIsExecuted :
    (Instr.data 101#32 1#32 5#16).wf = true ∧ hello.length = (Instr.data 101#32 1#32 5#16).header.len.toNat ∧
    rxReady (at' .established) = true ∧ definedFlags (Instr.data 101#32 1#32 5#16).header.flags = true ∧
    (at' .established).rxhcnt = 0#4 ∧ (at' .established).rxpcnt = 0#12 ∧
    { at' .established with rxIn := helloPacket.toHeader.bytes ++ hello ++ [0x33#8] }.rxIn =
      encode (.data 101#32 1#32 5#16) ++ hello ++ [0x33#8] ∧
    ∀ c ∈ [Cycle.quiet, { Cycle.quiet with rxEos := true }], c.connect = false ∧ c.rst = false ∧ c.arrive = [] := by
  decide

/-- The packets of P1. -/
def p1Packets : List Packet :=
  [mkSyn 100#32 0#32, mkAck 101#32 1#32, helloPacket, mkFinAck 106#32 102#32]

/-- A cycle in which the TX stream is ready. -/
def readyCycle : Cycle := { Cycle.quiet with txReady := true }

/-- FAILED, and the host connects an endpoint with P1's bytes and starts (P11). -/
def p1Start : State :=
  { failedState with
    script := { readyCycle with
        connect := true
        arrive := p1Packets.flatMap (fun p => p.toHeader.bytes ++ p.payload)
        start := true
        cfgStrict := true } :: List.replicate 77 readyCycle }

theorem witness_OrderedLifecycleReachesClosed :
    (∀ p ∈ p1Packets, p.wellFormed = true) ∧ classify (mkSyn 100#32 0#32).toHeader = .syn ∧
    classify (mkAck 101#32 1#32).toHeader = .ack ∧ classify helloPacket.toHeader = .data ∧
    classify (mkFinAck 106#32 102#32).toHeader = .finAck ∧ busy p1Start = false ∧ p1Start.txplen = 0#16 ∧
    p1Start.script =
      { readyCycle with
        connect := true
        arrive := (mkSyn 100#32 0#32).toHeader.bytes ++ (mkAck 101#32 1#32).toHeader.bytes ++
          (helloPacket.toHeader.bytes ++ hello) ++ (mkFinAck 106#32 102#32).toHeader.bytes
        start := true
        cfgStrict := true
        cfgIss := 0#32 } :: List.replicate (12 + 12 + 17 + 12 + 24) readyCycle := by decide

theorem witness_StepKeepsTheInvariant : Inv midPayload ∧ ∃ t, step midPayload = .next t :=
  ⟨witness_inv_midPayload, _, rfl⟩
theorem witness_NoStepFaultsFromTheInvariant : Inv sendingFin := witness_inv_sendingFin
theorem witness_StateChangesByTheTable : ∃ t, step lastPayload = .next t ∧ t.state = .dataReceived := ⟨_, rfl, rfl⟩
theorem witness_ClosedExactlyOncePerLifecycle :
    ∃ t, step { at' .finSent with
          rxhdr := 0x000000006A00000066000000#96, rxhcnt := 11#4, rxIn := [0x11#8] } = .next t ∧
      busy (at' .finSent) = true ∧ done t = true := ⟨_, rfl, rfl, rfl⟩
theorem witness_TraceIsThePulses : ∃ t, step lastSynByte = .next t ∧ t.logPulse.isSome = true := ⟨_, rfl, rfl⟩
theorem witness_ConfigurationIsConstantWhileBusy :
    ∃ t, step midPayload = .next t ∧ busy midPayload = true ∧ t.state ≠ .idle := ⟨_, rfl, rfl, by decide⟩
theorem witness_DatabufChangesAtDataAcceptanceOnly : ∃ t, step lastPayload = .next t ∧ t.dataLen = 5#16 := ⟨_, rfl, rfl⟩
theorem witness_StreamsMoveInOrder :
    (∃ t, step midPayload = .next t ∧ t.rxIn = [0x6F#8]) ∧ ∃ t, step sendingFin = .next t ∧ t.txOut = [0x01#8] :=
  ⟨⟨_, rfl, rfl⟩, _, rfl, rfl⟩
theorem witness_TerminalStatesTakeNoStreamEvent :
    (∃ t, step { closedState with rxIn := [0x33#8] } = .next t ∧ t.rxIn = [0x33#8]) ∧
    (∃ t, step { failedState with script := [startCycle] } = .next t ∧ t.state = .listening) ∧
    busy closedState = false ∧ busy failedState = false := ⟨⟨_, rfl, rfl⟩, ⟨_, rfl, rfl⟩, rfl, rfl⟩

end Sys2Proof.Tests
end

section
/-!
SUPPORT. The state's own operations (spec/10_state.md): header registers, buffers, the classes of STATE and the output
ports.
-/

namespace Sys2Proof.Machine

/-! ## Header registers (R21) -/

/-- The fields of RXHDR after a register write: the written one, and the others as before. -/
theorem rxHeader_writeX (r : HeaderReg) (v : Word) (s : State) :
    rxHeader (writeX r v s) =
      match r with
      | .rxhSeq => { rxHeader s with seq := v }
      | .rxhAck => { rxHeader s with ack := v }
      | .rxhLen => { rxHeader s with len := v.setWidth 16 }
      | .rxhFlags => { rxHeader s with flags := v.setWidth 16 }
      | .txhSeq | .txhAck | .txhLen | .txhFlags => rxHeader s := by
  cases r with
  | rxhSeq | rxhAck | rxhLen | rxhFlags => exact Header.ofBits_toBits _
  | txhSeq | txhAck | txhLen | txhFlags => rfl

/-- The fields of TXHDR after a register write: the written one, and the others as before. -/
theorem txHeader_writeX (r : HeaderReg) (v : Word) (s : State) :
    txHeader (writeX r v s) =
      match r with
      | .txhSeq => { txHeader s with seq := v }
      | .txhAck => { txHeader s with ack := v }
      | .txhLen => { txHeader s with len := v.setWidth 16 }
      | .txhFlags => { txHeader s with flags := v.setWidth 16 }
      | .rxhSeq | .rxhAck | .rxhLen | .rxhFlags => txHeader s := by
  cases r with
  | rxhSeq | rxhAck | rxhLen | rxhFlags => rfl
  | txhSeq | txhAck | txhLen | txhFlags => exact Header.ofBits_toBits _

/-- Widening the low 16 bits of a word keeps them and clears the rest. -/
theorem setWidth_setWidth_eq_and (v : Word) : (v.setWidth 16).setWidth 32 = v &&& 0xFFFF#32 := by
  apply BitVec.eq_of_toNat_eq
  have hmask : v.toNat &&& 65535 = v.toNat % 65536 := Nat.and_two_pow_sub_one_eq_mod v.toNat 16
  simp only [BitVec.toNat_setWidth, BitVec.toNat_and, BitVec.toNat_ofNat, Nat.reducePow, Nat.reduceMod, hmask]
  omega

/-- What every header register reads as after a register write: the value written, a 16-bit register taking its low
bits, or what it read as before. -/
theorem readX_writeX (q r : HeaderReg) (v : Word) (s : State) :
    readX q (writeX r v s) =
      if q = r then
        match r with
        | .rxhSeq | .rxhAck | .txhSeq | .txhAck => v
        | .rxhLen | .rxhFlags | .txhLen | .txhFlags => (v.setWidth 16).setWidth 32
      else readX q s := by
  cases q <;> simp only [readX, rxHeader_writeX, txHeader_writeX] <;> cases r <;> rfl

/-! ## Buffers (R30, R50) -/

/-- The buffer of a space after a write of a space. -/
theorem mem_setMem (s : State) (sp sp' : Space) (m : Memory) :
    (s.setMem sp m).mem sp' = if sp' = sp then m else s.mem sp' := by
  cases sp <;> cases sp' <;> rfl

/-- A read depends on its own cell only. -/
theorem memReadByte_congr {sp : Space} {i : Nat} {s t : State} (h : (t.mem sp).read? i = (s.mem sp).read? i) :
    memReadByte sp i t = memReadByte sp i s := by
  simp only [memReadByte, cellByte, h]

/-- A cell that exists and holds a byte is read as that byte. -/
theorem memReadByte_of_read? {sp : Space} {i : Nat} {v : Byte} {s : State} (hi : i < 2048)
    (h : (s.mem sp).read? i = some v) : memReadByte sp i s = .ok v := by
  simp only [memReadByte, cellByte, h, Config.maxPayload, hi, if_true, Option.getD_some]

/-- The canonical form, buffer by buffer. -/
theorem buffersWf_iff (s : State) : BuffersWf s ↔ ∀ sp, (s.mem sp).wf = true := by
  constructor
  · rintro ⟨hrx, hdata, htx⟩ sp
    cases sp with
    | rxbuf => exact hrx
    | databuf => exact hdata
    | txbuf => exact htx
  · intro h
    exact ⟨h .rxbuf, h .databuf, h .txbuf⟩

/-- A buffer in canonical form may take the place of another. -/
theorem buffersWf_setMem {s : State} {sp : Space} {m : Memory} (hm : m.wf = true) (h : BuffersWf s) :
    BuffersWf (s.setMem sp m) := by
  rw [buffersWf_iff] at h ⊢
  intro sp'
  rw [mem_setMem]
  split
  · exact hm
  · exact h sp'

/-- What every cell of every buffer holds after a byte is written. -/
theorem read?_setMem_write (s : State) (sp sp' : Space) (i j : Nat) (v : Byte) :
    ((s.setMem sp ((s.mem sp).write i v)).mem sp').read? j =
      if sp' = sp ∧ j = i then some v else (s.mem sp').read? j := by
  rw [mem_setMem]
  by_cases hsp : sp' = sp
  · subst hsp
    simp only [if_true, true_and, Memory.read?_write]
  · simp only [hsp, if_false, false_and]

/-! ## Classes of STATE (R26, R32, R130) -/

/-- The receive states. -/
theorem isReceive_iff (st : FsmState) :
    st.isReceive = true ↔ st ∈ [FsmState.listening, .synAckSent, .established, .finSent] := by
  cases st <;> decide

/-- The send states. -/
theorem isSend_iff (st : FsmState) : st.isSend = true ↔ st ∈ [FsmState.synReceived, .dataReceived] := by
  cases st <;> decide

/-- The busy states. -/
theorem isBusy_iff (st : FsmState) :
    st.isBusy = true ↔
      st ∈ [FsmState.listening, .synReceived, .synAckSent, .established, .dataReceived, .finSent] := by
  cases st <;> decide

/-- The states in which a lifecycle has ended. -/
theorem isDone_iff (st : FsmState) : st.isDone = true ↔ st = .closed ∨ st = .failed := by
  cases st <;> decide

/-- No state is a receive and a send state. -/
theorem not_isReceive_and_isSend (st : FsmState) : ¬ (st.isReceive = true ∧ st.isSend = true) := by
  rintro ⟨hr, hs⟩
  rw [FsmState.isReceive, expects_of_isSend hs] at hr
  cases hr

/-! ## Output ports (R31, R32) -/

/-- While a header byte is offered, `tx_data` is TXHDR's byte TXCNT. -/
theorem txData_of_header {s : State} (hv : txValid s = true) (hc : s.txcnt.toNat < 12) :
    txData s = headerByte s.txhdr s.txcnt.toNat := by
  simp only [txData, hv, if_true, txByte, Config.headerSize, hc]

/-- The log ports while `log_valid` are the event's bits. -/
theorem logPorts_of_some {s : State} {e : LogEvent} (h : s.logPulse = some e) : logPorts s = e.bits := by
  simp only [logPorts, h]

/-- The direction is the top bit of the log ports. -/
theorem logEvent_bits_dir (e : LogEvent) : e.bits.extractLsb' 99 1 = if e.sent = true then 1#1 else 0#1 := by
  rw [LogEvent.bits, BitVec.extractLsb'_append_eq_of_le (by decide), BitVec.extractLsb'_append_eq_of_le (by decide)]
  cases e.sent <;> rfl

/-- The kind code is under the direction. -/
theorem logEvent_bits_kind (e : LogEvent) : e.bits.extractLsb' 96 3 = kindCode e.kind := by
  rw [LogEvent.bits, BitVec.extractLsb'_append_eq_of_le (by decide)]
  exact BitVec.extractLsb'_append_eq_right

/-- The low 96 bits of the log ports are the event's header. -/
theorem logEvent_bits_fields (e : LogEvent) :
    e.bits.extractLsb' 64 32 = e.seq ∧ e.bits.extractLsb' 32 32 = e.ack ∧
      e.bits.extractLsb' 16 16 = e.len ∧ e.bits.extractLsb' 0 16 = e.flags := by
  have h := Header.ofBits_toBits ⟨e.seq, e.ack, e.len, e.flags⟩
  simp only [Header.ofBits, Header.mk.injEq] at h
  simpa (disch := decide) only [LogEvent.bits, BitVec.extractLsb'_append_eq_of_add_le] using h

end Sys2Proof.Machine

open Sys2Proof Sys2Proof.Machine

/-- Settles O14, by the law of a cell after a write, for every buffer. -/
theorem bufferWriteThenRead : Obligations.BufferWriteThenRead := by
  intro sp i v s
  constructor
  · intro hi
    refine ⟨s.setMem sp ((s.mem sp).write i v), if_pos hi, ?_, ?_, ?_⟩
    · exact memReadByte_of_read? hi (by simp only [read?_setMem_write, and_self, if_true])
    · intro sp' j hother
      have hcell : ¬ (sp' = sp ∧ j = i) := fun ⟨hsp, hj⟩ => hother.elim (absurd hsp) (absurd hj)
      apply memReadByte_congr
      rw [read?_setMem_write, if_neg hcell]
    · intro hwf
      exact buffersWf_setMem (Memory.wf_write v hi ((buffersWf_iff s).1 hwf sp)) hwf
  · intro hi
    exact if_neg (Nat.not_lt.2 hi)

/-- Settles O4: the twelve bytes fill the whole register, and unpacking undoes packing. -/
theorem twelveShiftedBytesAreTheHeader : Obligations.TwelveShiftedBytesAreTheHeader := by
  intro H b0 b1 b2 b3 b4 b5 b6 b7 b8 b9 b10 b11
  rw [shiftIn_twelve, Header.ofBits_toBits]

/-- Settles O13: the equation of a read after a write, at the register written and at another. -/
theorem headerRegistersAreIndependent : Obligations.HeaderRegistersAreIndependent := by
  intro r v s
  constructor
  · rw [readX_writeX, if_pos rfl]
    cases r with
    | rxhSeq | rxhAck | txhSeq | txhAck => rfl
    | rxhLen | rxhFlags | txhLen | txhFlags => exact setWidth_setWidth_eq_and v
  · intro q hq
    rw [readX_writeX, if_neg hq]

/-- Settles O16, from the classes of STATE. -/
theorem statusFlagsAreFunctionsOfState : Obligations.StatusFlagsAreFunctionsOfState :=
  fun s => ⟨isBusy_iff s.state, isDone_iff s.state, decide_eq_true_iff⟩

/-- Settles O17: the codes by evaluation of the tables, the ready and valid ports by the classes of STATE, the log ports
by taking the event's word apart; every other port shows its register. -/
theorem outputPortsByState : Obligations.OutputPortsByState := by
  refine ⟨rfl, rfl, rfl, fun s => ⟨isReceive_iff s.state, isSend_iff s.state, not_isReceive_and_isSend s.state, rfl,
    rfl, txData_of_header, ?_⟩⟩
  refine ⟨rfl, rfl, rfl, rfl, rfl, rfl, rfl, rfl, rfl, rfl, rfl, rfl, rfl, rfl, rfl, rfl, rfl, rfl, fun e he => ?_⟩
  simp only [outputs, logPorts_of_some he]
  exact ⟨logEvent_bits_dir e, logEvent_bits_kind e, logEvent_bits_fields e⟩

/-- Settles O49: each register's reset value, read off the definition. -/
theorem resetValues : Obligations.ResetValues := by
  unfold Obligations.ResetValues
  and_intros <;> rfl
end

section
/-!
SUPPORT. The invariant of the block, by the class of STATE: how a receive state, a send state, and FAILED come to meet
it, and that each thing a step can do keeps it.
-/

namespace Sys2Proof.Machine

/-! ## The invariant by the class of STATE -/

/-- What the invariant asks of a receive state (R25, R93, R95). -/
theorem inv_of_receive {s : State} (hr : s.state.isReceive = true) (hbuf : BuffersWf s) (hplen : s.txplen = 0#16)
    (htx : s.txcnt = 0#12) (hphase : InHeaderPhase s ∨ InPayloadPhase s) (herr : s.err = .clear)
    (hseq : SequenceOk s) (hdata : DataRecordOk s) : Inv s where
  buffers := hbuf
  txplen := hplen
  receiving _ := ⟨htx, hphase⟩
  sending hs := by cases h : s.state <;> simp [h, FsmState.isReceive, FsmState.expects, FsmState.isSend] at hr hs
  resting h := by rcases h with h | h <;> simp [h, FsmState.isReceive, FsmState.expects] at hr
  failedCounters h := by simp [h, FsmState.isReceive, FsmState.expects] at hr
  txPacket := by constructor <;> intro h <;> simp [h, FsmState.isReceive, FsmState.expects] at hr
  errRecord := ⟨fun _ => herr, fun h => by simp [h, FsmState.isReceive, FsmState.expects] at hr⟩
  sequence := hseq
  dataRecord := hdata

/-- What the invariant asks of a send state (R25, R134, R137). -/
theorem inv_of_send {s : State} (hs : s.state.isSend = true) (hbuf : BuffersWf s) (hplen : s.txplen = 0#16)
    (hrx : s.rxhcnt = 0#4 ∧ s.rxpcnt = 0#12) (htx : s.txcnt.toNat < 12) (hpkt : TxPacketLoaded s)
    (herr : s.err = .clear) (hseq : SequenceOk s) (hdata : DataRecordOk s) : Inv s where
  buffers := hbuf
  txplen := hplen
  receiving hr := by cases h : s.state <;> simp [h, FsmState.isReceive, FsmState.expects, FsmState.isSend] at hr hs
  sending _ := ⟨hrx.1, hrx.2, htx⟩
  resting h := by rcases h with h | h <;> simp [h, FsmState.isSend] at hs
  failedCounters h := by simp [h, FsmState.isSend] at hs
  txPacket := hpkt
  errRecord := ⟨fun _ => herr, fun h => by simp [h, FsmState.isSend] at hs⟩
  sequence := hseq
  dataRecord := hdata

/-- What the invariant asks of IDLE and CLOSED: neither a packet nor an error is on its way (R25). -/
theorem inv_of_rest {s : State} (hst : s.state = .idle ∨ s.state = .closed) (hbuf : BuffersWf s)
    (hplen : s.txplen = 0#16) (hcnt : s.rxhcnt = 0#4 ∧ s.rxpcnt = 0#12 ∧ s.txcnt = 0#12) (herr : s.err = .clear)
    (hseq : SequenceOk s) (hdata : DataRecordOk s) : Inv s where
  buffers := hbuf
  txplen := hplen
  receiving hr := by rcases hst with h | h <;> simp [h, FsmState.isReceive, FsmState.expects] at hr
  sending hs := by rcases hst with h | h <;> simp [h, FsmState.isSend] at hs
  resting _ := hcnt
  failedCounters h := by simp [h] at hst
  txPacket := by constructor <;> intro h <;> simp [h] at hst
  errRecord := ⟨fun _ => herr, fun h => by simp [h] at hst⟩
  sequence := hseq
  dataRecord := hdata

/-! ## FAIL -/

/-- What FAIL needs of the state it is taken in, for the invariant to hold in FAILED: less than the invariant, as the
header that R94 refuses has been taken whole. -/
structure FailReady (s : State) : Prop where
  busy : s.state.isBusy = true
  buffers : BuffersWf s
  txplen : s.txplen = 0#16
  rxhcnt : s.rxhcnt.toNat ≤ 12
  rxpcnt : s.rxpcnt.toNat < 2048
  txcnt : s.txcnt.toNat < 12
  dataLen : s.dataLen.toNat ≤ 2048
  databuf : ∀ i, i < s.dataLen.toNat → (s.databuf.read? i).isSome = true

/-- FAIL leads to a state that meets the invariant (R25, R28, R187). -/
theorem inv_fail {c : ErrCode} {x a : Kind} {s : State} (hc : c ≠ .none) (h : FailReady s) : Inv (fail c x a s) where
  buffers := h.buffers
  txplen := h.txplen
  receiving hr := by simp [FsmState.isReceive, FsmState.expects] at hr
  sending hs := by simp [FsmState.isSend] at hs
  resting hs := by simp at hs
  failedCounters _ := ⟨h.rxhcnt, h.rxpcnt, h.txcnt⟩
  txPacket := by simp [TxPacketLoaded]
  errRecord := ⟨fun hs => absurd rfl hs, fun _ => ⟨hc, h.busy⟩⟩
  sequence := by simp [SequenceOk, FsmState.beforeSyn]
  dataRecord := ⟨fun _ hs => absurd rfl hs, fun hs => by simp [FsmState.afterData] at hs, h.dataLen, h.databuf⟩

/-- In a busy state that meets the invariant an error may be taken. -/
theorem Inv.failReady {s : State} (h : Inv s) (hb : s.state.isBusy = true) : FailReady s := by
  have counters : s.rxhcnt.toNat ≤ 12 ∧ s.rxpcnt.toNat < 2048 ∧ s.txcnt.toNat < 12 := by
    rcases Bool.or_eq_true_iff.1 hb with hr | hs
    · obtain ⟨htx, ⟨hh, hp⟩ | ⟨hh, hp, hlen, _⟩⟩ := h.receiving hr
      · simp only [Config.headerSize] at hh
        simp only [htx, hp, BitVec.toNat_ofNat]
        omega
      · simp only [Config.maxPayload] at hlen
        simp only [htx, hh, BitVec.toNat_ofNat]
        omega
    · obtain ⟨hh, hp, htx⟩ := h.sending hs
      simp only [Config.headerSize] at htx
      simp only [hh, hp, BitVec.toNat_ofNat]
      omega
  obtain ⟨hrxh, hrxp, htx⟩ := counters
  obtain ⟨_, _, hlen, hcells⟩ := h.dataRecord
  exact ⟨hb, h.buffers, h.txplen, hrxh, hrxp, htx, hlen, hcells⟩

/-- A busy state is not FAILED. -/
theorem ne_failed_of_isBusy {st : FsmState} (hb : st.isBusy = true) : st ≠ .failed := by
  rintro rfl
  cases hb

/-- ERR is clear in a busy state. -/
theorem Inv.err_clear {s : State} (h : Inv s) (hb : s.state.isBusy = true) : s.err = .clear :=
  h.errRecord.1 (ne_failed_of_isBusy hb)

/-- What SequenceOk asks of a state after the SYN. -/
theorem sequenceOk_of_pnx {s : State} (hsyn : s.state.beforeSyn = false) (hpnx : s.pnx = plusOne s.irs)
    (hackm : s.state = .synReceived ∨ s.state = .synAckSent → s.ackm = false) : SequenceOk s := by
  refine ⟨fun hb => ?_, fun _ _ => hpnx, fun hb => hackm (hb.resolve_left ?_)⟩
  · simp [hsyn] at hb
  · simp [hsyn]

/-- What SequenceOk asks of a state before the SYN. -/
theorem sequenceOk_of_beforeSyn {s : State} (hsyn : s.state.beforeSyn = true) (hirs : s.irs = 0#32)
    (hpnx : s.pnx = 0#32) (hackm : s.ackm = false) : SequenceOk s := by
  refine ⟨fun _ => ⟨hirs, hpnx⟩, fun hb => ?_, fun _ => hackm⟩
  simp [hsyn] at hb

/-- What DataRecordOk asks of a state with no DATA recorded. -/
theorem dataRecordOk_of_zero {s : State} (hdata : s.state.afterData = false) (hzero : s.dataLen = 0#16) :
    DataRecordOk s := by
  refine ⟨fun _ _ => hzero, fun hd => ?_, ?_, ?_⟩
  · simp [hdata] at hd
  · simp [hzero]
  · simp [hzero]

/-- PNX is IRS + 1 in a busy state after the SYN. -/
theorem Inv.pnx_eq {s : State} (h : Inv s) (hb : s.state.isBusy = true) (hsyn : s.state.beforeSyn = false) :
    s.pnx = plusOne s.irs := by
  obtain ⟨_, hpnx, _⟩ := h.sequence
  exact hpnx hsyn (ne_failed_of_isBusy hb)

/-- ACKM is 0 until the ACK is accepted. -/
theorem Inv.ackm_eq_false {s : State} (h : Inv s) (hst : s.state = .listening ∨ s.state = .synReceived) :
    s.ackm = false := by
  obtain ⟨_, _, hackm⟩ := h.sequence
  rcases hst with hst | hst
  · exact hackm (.inl (by rw [hst]; rfl))
  · exact hackm (.inr (.inl hst))

/-- DATA_LEN is 0 in a busy state with no DATA recorded. -/
theorem Inv.dataLen_eq_zero {s : State} (h : Inv s) (hb : s.state.isBusy = true) (hdata : s.state.afterData = false) :
    s.dataLen = 0#16 :=
  h.dataRecord.1 hdata (ne_failed_of_isBusy hb)

/-- Before the first byte of a packet the header phase holds. -/
theorem inHeaderPhase_of_zero {s : State} (hh : s.rxhcnt = 0#4) (hp : s.rxpcnt = 0#12) :
    InHeaderPhase s ∨ InPayloadPhase s :=
  .inl ⟨by simp [hh], hp⟩

/-- A receive state is busy. -/
theorem isBusy_of_isReceive {st : FsmState} (h : st.isReceive = true) : st.isBusy = true := by simp [FsmState.isBusy, h]

/-- A send state is busy. -/
theorem isBusy_of_isSend {st : FsmState} (h : st.isSend = true) : st.isBusy = true := by simp [FsmState.isBusy, h]

/-- A state that expects a kind is a receive state (R130). -/
theorem isReceive_of_expects {st : FsmState} {e : Kind} (h : st.expects = some e) : st.isReceive = true := by
  simp [FsmState.isReceive, h]

/-! ## The environment, reset and start -/

/-- The invariant is about the block's registers: what the environment does keeps it. -/
theorem Inv.openCycle {s : State} (h : Inv s) (c : Cycle) : Inv (openCycle c s) :=
  ⟨h.buffers, h.txplen, h.receiving, h.sending, h.resting, h.failedCounters, h.txPacket, h.errRecord, h.sequence,
    h.dataRecord⟩

/-- A byte leaving the transport changes no register of the block. -/
theorem Inv.takeRx {s : State} (h : Inv s) : Inv (takeRx s) :=
  ⟨h.buffers, h.txplen, h.receiving, h.sending, h.resting, h.failedCounters, h.txPacket, h.errRecord, h.sequence,
    h.dataRecord⟩

/-- A log event changes no register of the block. -/
theorem Inv.logReceived {s : State} (h : Inv s) (hd : Header) : Inv (logReceived hd s) :=
  ⟨h.buffers, h.txplen, h.receiving, h.sending, h.resting, h.failedCounters, h.txPacket, h.errRecord, h.sequence,
    h.dataRecord⟩

/-- Reset leads to a state that meets the invariant, from any state with canonical buffers (R210). -/
theorem inv_resetBlock {s : State} (h : BuffersWf s) : Inv (resetBlock s) :=
  inv_of_rest (.inl rfl) h rfl ⟨rfl, rfl, rfl⟩ rfl (sequenceOk_of_beforeSyn rfl rfl rfl rfl)
    (dataRecordOk_of_zero rfl rfl)

/-- Start leads to a state that meets the invariant (R160). -/
theorem inv_startBlock {s : State} (h : BuffersWf s) (hp : s.txplen = 0#16) : Inv (startBlock s) :=
  inv_of_receive rfl h hp rfl (inHeaderPhase_of_zero rfl rfl) rfl (sequenceOk_of_beforeSyn rfl rfl rfl rfl)
    (dataRecordOk_of_zero rfl rfl)

/-! ## Receiving -/

/-- In a receive state, registers of the receive unit may be written so that one of the two phases holds. -/
theorem Inv.setReceiveUnit {s : State} {H : HeaderBits} {hc : BitVec 4} {pc : BitVec 12} {buf : Memory} (h : Inv s)
    (hr : s.state.isReceive = true) (hbuf : buf.wf = true)
    (hphase : InHeaderPhase { s with rxhdr := H, rxhcnt := hc, rxpcnt := pc, rxbuf := buf } ∨
      InPayloadPhase { s with rxhdr := H, rxhcnt := hc, rxpcnt := pc, rxbuf := buf }) :
    Inv { s with rxhdr := H, rxhcnt := hc, rxpcnt := pc, rxbuf := buf } :=
  inv_of_receive hr ⟨hbuf, h.buffers.2⟩ h.txplen (h.receiving hr).1 hphase (h.err_clear (isBusy_of_isReceive hr))
    h.sequence h.dataRecord

/-- While header bytes are missing, no payload byte is counted. -/
theorem Inv.headerPhase {s : State} (h : Inv s) (hr : s.state.isReceive = true) (hh : s.rxhcnt.toNat < 12) :
    s.rxpcnt = 0#12 := by
  rcases (h.receiving hr).2 with ⟨_, hp⟩ | ⟨hh', _⟩
  · exact hp
  · simp [hh'] at hh

/-- Once the header is taken whole, it has passed R94 and the payload bytes counted stand in RXBUF. -/
theorem Inv.payloadPhase {s : State} (h : Inv s) (hr : s.state.isReceive = true) (hh : s.rxhcnt = 12#4) :
    InPayloadPhase s := by
  rcases (h.receiving hr).2 with ⟨hh', _⟩ | hp
  · simp [hh, Config.headerSize] at hh'
  · exact hp

/-- A payload byte is recorded at its index, beside those recorded before. -/
theorem payload_recorded {s : State} {b : Byte}
    (hcells : ∀ i, i < s.rxpcnt.toNat → (s.rxbuf.read? i).isSome = true) :
    ∀ i, i < s.rxpcnt.toNat + 1 → ((afterPayloadByte b s).rxbuf.read? i).isSome = true := by
  intro i hi
  rw [Memory.read?_write]
  split
  · rfl
  · exact hcells i (by omega)

/-- A byte that does not complete the packet keeps the invariant (R93 to R95). -/
theorem inv_desByte_more {b : Byte} {s t : State} (h : Inv s) (hr : s.state.isReceive = true)
    (hd : desByte b s = .more t) : Inv t := by
  rcases desByte_more hd with ⟨hh, rfl⟩ | ⟨hh, hlen, hflags, hne, rfl⟩ | ⟨hh, hlt, hp, rfl⟩
  · refine h.setReceiveUnit hr h.buffers.1 (.inl ⟨?_, h.headerPhase hr (by omega)⟩)
    show (s.rxhcnt + 1#4).toNat < 12
    simp only [BitVec.toNat_add, BitVec.toNat_ofNat]
    omega
  · refine h.setReceiveUnit hr h.buffers.1 (.inr ⟨?_, Nat.pos_of_ne_zero hne, hlen, hflags, fun i hi => ?_⟩)
    · show s.rxhcnt + 1#4 = 12#4
      rw [hh]; rfl
    · exact absurd hi (Nat.not_lt_zero i)
  · obtain ⟨_, _, hlen, hflags, hcells⟩ := h.payloadPhase hr hh
    have hcount : (s.rxpcnt + 1#12).toNat = s.rxpcnt.toNat + 1 := by
      simp only [BitVec.toNat_add, BitVec.toNat_ofNat]
      omega
    have hphase : InPayloadPhase (afterPayloadByte b s) := by
      refine ⟨hh, ?_, hlen, hflags, ?_⟩
      · show (s.rxpcnt + 1#12).toNat < rxLen s
        rw [hcount]; exact hlt
      · show ∀ i, i < (s.rxpcnt + 1#12).toNat → _
        rw [hcount]; exact payload_recorded hcells
    exact h.setReceiveUnit hr (Memory.wf_write b hp h.buffers.1) (.inr hphase)

/-- What stands when a packet is delivered (R96): the invariant, with the counters cleared and the whole payload in
RXBUF. -/
structure Delivered (s : State) : Prop where
  inv : Inv s
  rxhcnt : s.rxhcnt = 0#4
  rxpcnt : s.rxpcnt = 0#12
  len : rxLen s ≤ 2048
  payload : ∀ i, i < rxLen s → (s.rxbuf.read? i).isSome = true

/-- A byte that completes the packet delivers it. -/
theorem delivered_desByte_complete {b : Byte} {s t : State} (h : Inv s) (hr : s.state.isReceive = true)
    (hd : desByte b s = .complete t) : Delivered t := by
  have hlen := desByte_complete_len hd
  rcases desByte_complete hd with ⟨hh, hzero, _, rfl⟩ | ⟨hh, heq, hp, rfl⟩
  · refine ⟨h.setReceiveUnit hr h.buffers.1 (inHeaderPhase_of_zero rfl rfl), rfl, rfl, hlen, fun i hi => ?_⟩
    exact absurd (hzero ▸ hi) (Nat.not_lt_zero i)
  · obtain ⟨_, _, _, _, hcells⟩ := h.payloadPhase hr hh
    refine ⟨h.setReceiveUnit hr (Memory.wf_write b hp h.buffers.1) (inHeaderPhase_of_zero rfl rfl), rfl, rfl, hlen, ?_⟩
    show ∀ i, i < rxLen s → _
    rw [← heq]
    exact payload_recorded hcells

/-- A byte that completes a refused header leaves a state in which the error may be taken (R94). -/
theorem failReady_desByte_raised {b : Byte} {s t : State} {c : ErrCode} (h : Inv s) (hr : s.state.isReceive = true)
    (hd : desByte b s = .raised c t) : c ≠ .none ∧ FailReady t := by
  obtain ⟨hh, rfl, hc⟩ := desByte_raised hd
  have hs := h.failReady (isBusy_of_isReceive hr)
  refine ⟨by rcases hc with ⟨rfl, _⟩ | ⟨rfl, _⟩ <;> simp, { hs with rxhcnt := ?_ }⟩
  show (s.rxhcnt + 1#4).toNat ≤ 12
  simp [hh]

/-! ## Delivery -/

/-- The acceptance of a SYN keeps the invariant: the SYN_ACK is loaded (R133). -/
theorem inv_acceptSyn {s : State} {seq : Word} (h : Delivered s) (hst : s.state = .listening) :
    Inv (acceptSyn seq s) := by
  have hb : s.state.isBusy = true := by rw [hst]; rfl
  have hackm : s.ackm = false := h.inv.ackm_eq_false (.inl hst)
  have hzero : s.dataLen = 0#16 := h.inv.dataLen_eq_zero hb (by rw [hst]; rfl)
  rw [acceptSyn, enterSend_ok rfl (by exact h.inv.txplen)]
  exact inv_of_send rfl h.inv.buffers h.inv.txplen ⟨h.rxhcnt, h.rxpcnt⟩ (Nat.zero_lt_succ 11) ⟨fun _ => rfl, nofun⟩
    (h.inv.err_clear hb) (sequenceOk_of_pnx rfl rfl fun _ => hackm) (dataRecordOk_of_zero rfl hzero)

/-- The acceptance of an ACK keeps the invariant, whatever its number (R135). -/
theorem inv_acceptAck {s : State} {a : Word} (h : Delivered s) (hst : s.state = .synAckSent) : Inv (acceptAck a s) := by
  have hr : s.state.isReceive = true := by rw [hst]; rfl
  have hb := isBusy_of_isReceive hr
  have hpnx : s.pnx = plusOne s.irs := h.inv.pnx_eq hb (by rw [hst]; rfl)
  have hzero : s.dataLen = 0#16 := h.inv.dataLen_eq_zero hb (by rw [hst]; rfl)
  exact inv_of_receive rfl h.inv.buffers h.inv.txplen (h.inv.receiving hr).1 (inHeaderPhase_of_zero h.rxhcnt h.rxpcnt)
    (h.inv.err_clear hb) (sequenceOk_of_pnx rfl hpnx (by simp)) (dataRecordOk_of_zero rfl hzero)

/-- The acceptance of a DATA packet keeps the invariant: the payload is recorded and the FIN is loaded (R136). -/
theorem inv_acceptData {s t : State} (h : Delivered s) (hst : s.state = .established) (hpos : 0 < rxLen s)
    (ha : acceptData (rxHeader s).len s = .ok t) : Inv t := by
  have hb : s.state.isBusy = true := by rw [hst]; rfl
  have hpnx : s.pnx = plusOne s.irs := h.inv.pnx_eq hb (by rw [hst]; rfl)
  have hne : (rxHeader s).len ≠ 0#16 := fun hz => Nat.ne_of_gt hpos (congrArg BitVec.toNat hz)
  obtain ⟨hwrx, hwdata, hwtx⟩ := h.inv.buffers
  obtain ⟨hlen, rfl⟩ := acceptData_ok ha
  rw [enterSend_ok rfl (by exact h.inv.txplen)]
  refine inv_of_send rfl ⟨hwrx, Memory.wf_copyLow hwrx hwdata, hwtx⟩ h.inv.txplen ⟨h.rxhcnt, h.rxpcnt⟩
    (Nat.zero_lt_succ 11) ⟨nofun, fun _ => rfl⟩ (h.inv.err_clear hb) (sequenceOk_of_pnx rfl hpnx (by simp))
    ⟨nofun, fun _ => hne, hlen, fun i hi => ?_⟩
  rw [Memory.read?_copyLow, if_pos hi]
  exact h.payload i hi

/-- The acceptance of a FIN_ACK keeps the invariant (R138). -/
theorem inv_acceptFinAck {s : State} (h : Delivered s) (hst : s.state = .finSent) : Inv (acceptFinAck s) := by
  have hr : s.state.isReceive = true := by rw [hst]; rfl
  have hb := isBusy_of_isReceive hr
  have hpnx : s.pnx = plusOne s.irs := h.inv.pnx_eq hb (by rw [hst]; rfl)
  obtain ⟨_, hne, hlen, hcells⟩ := h.inv.dataRecord
  exact inv_of_rest (.inr rfl) h.inv.buffers h.inv.txplen ⟨h.rxhcnt, h.rxpcnt, (h.inv.receiving hr).1⟩
    (h.inv.err_clear hb) (sequenceOk_of_pnx rfl hpnx (by simp)) ⟨nofun, fun _ => hne (by rw [hst]; rfl), hlen, hcells⟩

/-- The log event of a delivered packet leaves it delivered. -/
theorem Delivered.logReceived {s : State} (h : Delivered s) (hd : Header) : Delivered (logReceived hd s) :=
  ⟨h.inv.logReceived hd, h.rxhcnt, h.rxpcnt, h.len, h.payload⟩

/-- The delivery of a packet keeps the invariant (R131). -/
theorem inv_deliver {s t : State} {e : Kind} (h : Delivered s) (he : s.state.expects = some e)
    (hd : deliver s = .next t) : Inv t := by
  have hb := isBusy_of_isReceive (isReceive_of_expects he)
  have hlog := h.logReceived (rxHeader s)
  rcases deliver_cases h.len he hd with ⟨_, rfl⟩ | ⟨_, rfl⟩ | ⟨hst, _, rfl⟩ | ⟨hst, _, rfl⟩ | ⟨hst, _, hpos, ha⟩ |
    ⟨hst, _, rfl⟩
  · exact inv_fail (by decide) (hlog.inv.failReady hb)
  · exact inv_fail (by decide) (h.inv.failReady hb)
  · exact inv_acceptSyn hlog hst
  · exact inv_acceptAck hlog hst
  · exact inv_acceptData hlog hst hpos ha
  · exact inv_acceptFinAck hlog hst

/-! ## Sending -/

/-- The packet being sent has no payload (R134, R137). -/
theorem Inv.txLen_eq_zero {s : State} (h : Inv s) (hs : s.state.isSend = true) : txLen s = 0 := by
  obtain ⟨hsyn, hfin⟩ := h.txPacket
  cases hst : s.state <;> simp [hst, FsmState.isSend] at hs
  · simp [txLen, txHeader, hsyn hst, mkSynAck]
  · simp [txLen, txHeader, hfin hst, mkFin]

/-- A send state's last byte leads to a receive state after the SYN that has the same record of the data (R132). -/
theorem inv_sendComplete {k : Kind} {nxt : FsmState} {s : State} (h : Inv s) (hs : s.state.isSend = true)
    (hr : nxt.isReceive = true) (hsyn : nxt.beforeSyn = false) (hackm : nxt = .synAckSent → s.ackm = false)
    (hdata : nxt.afterData = s.state.afterData) : Inv (sendComplete k nxt s) := by
  obtain ⟨hrxh, hrxp, _⟩ := h.sending hs
  obtain ⟨hzero, hne, hlen, hcells⟩ := h.dataRecord
  have hb := isBusy_of_isSend hs
  have hpnx : s.pnx = plusOne s.irs := by
    refine h.pnx_eq hb ?_
    cases hst : s.state <;> simp [hst, FsmState.isSend, FsmState.beforeSyn] at hs ⊢
  have hnotSend : nxt ≠ .synReceived := by
    rintro rfl
    cases hr
  exact inv_of_receive hr h.buffers h.txplen rfl (inHeaderPhase_of_zero hrxh hrxp) (h.err_clear hb)
    (sequenceOk_of_pnx hsyn hpnx fun hn => hackm (hn.resolve_left hnotSend))
    ⟨fun ha _ => hzero (hdata ▸ ha) (ne_failed_of_isBusy hb), fun ha => hne (hdata ▸ ha), hlen, hcells⟩

/-- A send state that has sent some bytes, fewer than twelve, keeps the invariant. -/
theorem Inv.setTxProgress {s : State} {out : List Byte} {n : BitVec 12} (h : Inv s) (hs : s.state.isSend = true)
    (hn : n.toNat < 12) : Inv { s with txOut := out, txcnt := n } := by
  obtain ⟨hrxh, hrxp, _⟩ := h.sending hs
  exact inv_of_send hs h.buffers h.txplen ⟨hrxh, hrxp⟩ hn h.txPacket (h.err_clear (isBusy_of_isSend hs)) h.sequence
    h.dataRecord

/-- A step of sending keeps the invariant, if the completion action does (R132). -/
theorem inv_sendStep {k : Kind} {nxt : FsmState} {s t : State} (h : Inv s) (hs : s.state.isSend = true)
    (hdone : ∀ out, Inv (sendComplete k nxt { s with txOut := out, txcnt := 0#12 }))
    (hstep : sendStep k nxt s = .next t) : Inv t := by
  rcases sendStep_next hstep with ⟨_, rfl⟩ | ⟨_, rfl⟩ | ⟨_, b, _, ⟨hmore, rfl⟩ | ⟨_, rfl⟩⟩
  · exact h
  · exact inv_fail (by decide) (h.failReady (isBusy_of_isSend hs))
  · apply h.setTxProgress hs
    obtain ⟨_, _, hcnt⟩ := h.sending hs
    simp only [Config.headerSize] at hcnt
    rw [h.txLen_eq_zero hs] at hmore
    simp only [BitVec.toNat_add, BitVec.toNat_ofNat]
    omega
  · exact hdone _

/-- A step of a send state keeps the invariant (R134, R137). -/
theorem inv_exec_sendInstr {s t : State} (h : Inv s) (hs : s.state.isSend = true)
    (hx : exec (sendInstr s) s = .next t) : Inv t := by
  have hstart (out : List Byte) : Inv { s with txOut := out, txcnt := 0#12 } := h.setTxProgress hs (Nat.zero_lt_succ 11)
  rcases exec_sendInstr hs with ⟨hst, e⟩ | ⟨hst, e⟩ <;> rw [e] at hx <;> refine inv_sendStep h hs (fun out => ?_) hx
  · have hackm : s.ackm = false := h.ackm_eq_false (.inr hst)
    exact inv_sendComplete (hstart out) hs rfl rfl (fun _ => hackm) (by rw [hst]; rfl)
  · exact inv_sendComplete (hstart out) hs rfl rfl nofun (by rw [hst]; rfl)

/-! ## The step -/

/-- Whatever event a cycle brings, its effect keeps the invariant. -/
theorem inv_runEvent {s t : State} (h : Inv s) (hrun : runEvent s = .next t) : Inv t := by
  rcases runEvent_next hrun with ⟨_, rfl⟩ | ⟨_, rfl⟩ | ⟨_, rfl⟩ | ⟨b, hev, hd⟩ | ⟨b, e, c, s2, _, he, hd, rfl⟩ |
    ⟨b, e, s2, _, he, hst, hd, hdel⟩ | ⟨e, _, he, rfl⟩ | ⟨hs, hx⟩
  · exact h
  · exact inv_resetBlock h.buffers
  · exact inv_startBlock h.buffers h.txplen
  · obtain ⟨_, ⟨e, he⟩, _⟩ := eventOf_byte hev
    exact inv_desByte_more h.takeRx (isReceive_of_expects he) hd
  · obtain ⟨hc, hready⟩ := failReady_desByte_raised h.takeRx (isReceive_of_expects he) hd
    exact inv_fail hc hready
  · exact inv_deliver (delivered_desByte_complete h.takeRx (isReceive_of_expects he) hd) (hst ▸ he) hdel
  · exact inv_fail (by decide) (h.failReady (isBusy_of_isReceive (isReceive_of_expects he)))
  · exact inv_exec_sendInstr h hs hx

/-- The reset state meets the invariant. -/
theorem inv_reset : Inv State.reset := inv_resetBlock (s := State.reset) ⟨rfl, rfl, rfl⟩

end Sys2Proof.Machine

open Sys2Proof Sys2Proof.Machine

/-- Settles O51: the invariant passes through the cycle's beginning, which touches no register of the block, and through
each event's effect. -/
theorem stepKeepsTheInvariant : Obligations.StepKeepsTheInvariant := by
  intro s t h hstep
  obtain ⟨s1, _, rfl, hrun⟩ := step_next hstep
  exact inv_runEvent (h.openCycle _) hrun

/-- Settles O50: the reset state is what a reset leaves of itself, and reset leads to the invariant. -/
theorem resetMeetsTheInvariant : Obligations.ResetMeetsTheInvariant := inv_reset
end

section
/-!
SUPPORT. The configuration latches (R27): written by start and reset only.
-/

namespace Sys2Proof.Machine

/-- The configuration latches hold the same. -/
abbrev SameConfig (s t : State) : Prop := t.cfgStrict = s.cfgStrict ∧ t.cfgIss = s.cfgIss

/-- Entering a send state leaves the configuration alone. -/
theorem enterSend_sameConfig (st : FsmState) (q : Header) (s : State) : SameConfig s (enterSend st q s) := by
  rcases enterSend_cases st q s with e | e <;> rw [e] <;> exact ⟨rfl, rfl⟩

/-- The delivery of a packet leaves the configuration alone (R131). -/
theorem deliver_sameConfig {s t : State} {e : Kind} (hlen : rxLen s ≤ 2048) (he : s.state.expects = some e)
    (h : deliver s = .next t) : SameConfig s t := by
  rcases deliver_cases hlen he h with ⟨_, rfl⟩ | ⟨_, rfl⟩ | ⟨_, _, rfl⟩ | ⟨_, _, rfl⟩ | ⟨_, _, _, ha⟩ | ⟨_, _, rfl⟩
  · exact ⟨rfl, rfl⟩
  · exact ⟨rfl, rfl⟩
  · exact enterSend_sameConfig _ _ _
  · exact ⟨rfl, rfl⟩
  · obtain ⟨_, rfl⟩ := acceptData_ok ha
    exact enterSend_sameConfig _ _ _
  · exact ⟨rfl, rfl⟩

/-- A step of sending leaves the configuration alone (R132). -/
theorem sendStep_sameConfig {k : Kind} {nxt : FsmState} {s t : State} (h : sendStep k nxt s = .next t) :
    SameConfig s t := by
  rcases sendStep_next h with ⟨_, rfl⟩ | ⟨_, rfl⟩ | ⟨_, _, _, ⟨_, rfl⟩ | ⟨_, rfl⟩⟩ <;> exact ⟨rfl, rfl⟩

/-- The effect of an event on a busy block leaves the configuration alone, but for reset. -/
theorem runEvent_sameConfig {s t : State} (hbusy : busy s = true) (hidle : t.state ≠ .idle)
    (h : runEvent s = .next t) : SameConfig s t := by
  rcases runEvent_next h with ⟨_, rfl⟩ | ⟨_, rfl⟩ | ⟨hev, _⟩ | ⟨b, _, hd⟩ | ⟨b, e, c, s2, _, _, hd, rfl⟩ |
    ⟨b, e, s2, _, he, hst, hd, hdel⟩ | ⟨e, _, _, rfl⟩ | ⟨hs, hx⟩
  · exact ⟨rfl, rfl⟩
  · exact absurd rfl hidle
  · rw [(eventOf_start hev).2] at hbusy
    cases hbusy
  · have hsame := desByte_more_same hd
    exact ⟨hsame.cfgStrict, hsame.cfgIss⟩
  · have hsame := desByte_raised_same hd
    exact ⟨hsame.cfgStrict, hsame.cfgIss⟩
  · have hsame := desByte_complete_same hd
    obtain ⟨hstrict, hiss⟩ := deliver_sameConfig (desByte_complete_len hd) (hst ▸ he) hdel
    exact ⟨hstrict.trans hsame.cfgStrict, hiss.trans hsame.cfgIss⟩
  · exact ⟨rfl, rfl⟩
  · rcases exec_sendInstr hs with ⟨_, e⟩ | ⟨_, e⟩ <;> rw [e] at hx <;> exact sendStep_sameConfig hx

end Sys2Proof.Machine

open Sys2Proof Sys2Proof.Machine

/-- Settles O56: the cycle's beginning changes no latch, and of its events only start, which a busy block does not
accept, and reset, which leads to IDLE, do. -/
theorem configurationIsConstantWhileBusy : Obligations.ConfigurationIsConstantWhileBusy := by
  intro s t hstep hbusy hidle
  obtain ⟨s1, _, rfl, hrun⟩ := step_next hstep
  exact runEvent_sameConfig (s := openCycle (nextCycle s) s) hbusy hidle hrun
end

section
/-!
SUPPORT. Noninterference of ACKM (R26): every operation of a step commutes with putting another value into ACKM, but for
the three that write it (the acceptance of an ACK, start and reset), which forget what it held.
-/

namespace Sys2Proof.Machine

/-- The state with `a` in ACKM. -/
def State.withAckm (a : Bool) (s : State) : State := { s with ackm := a }

/-- Two outcomes that stop alike, or whose next states differ in ACKM at most. -/
inductive AlikeButAckm : Outcome → Outcome → Prop
  | next (t : State) (a : Bool) : AlikeButAckm (.next t) (.next (t.withAckm a))
  | fault (f : Fault) : AlikeButAckm (.fault f) (.fault f)
  | refused (r : Refusal) : AlikeButAckm (.refused r) (.refused r)

/-- The result of the deserializer with `a` in ACKM. -/
def DesResult.withAckm (a : Bool) : DesResult → DesResult
  | .more s => .more (s.withAckm a)
  | .complete s => .complete (s.withAckm a)
  | .raised e s => .raised e (s.withAckm a)
  | .fault f => .fault f

/-- The result of the serializer with `a` in ACKM. -/
def SerResult.withAckm (a : Bool) : SerResult → SerResult
  | .more s => .more (s.withAckm a)
  | .sent s => .sent (s.withAckm a)
  | .raised e s => .raised e (s.withAckm a)
  | .fault f => .fault f

/-- A choice made alike between outcomes that are alike. -/
theorem AlikeButAckm.ite {c : Prop} [Decidable c] {o₁ o₂ o₁' o₂' : Outcome} (h₁ : AlikeButAckm o₁ o₁')
    (h₂ : AlikeButAckm o₂ o₂') : AlikeButAckm (if c then o₁ else o₂) (if c then o₁' else o₂') := by
  split
  · exact h₁
  · exact h₂

/-- An action on the state that answers alike, but for ACKM, whatever ACKM holds. -/
def CommutesButAckm (act : State → State) : Prop :=
  ∀ (s : State) (a : Bool), ∃ a', act (s.withAckm a) = (act s).withAckm a'

/-! ## What does not see ACKM -/

@[simp] theorem withAckm_state (a : Bool) (s : State) : (s.withAckm a).state = s.state := rfl
@[simp] theorem withAckm_rxhdr (a : Bool) (s : State) : (s.withAckm a).rxhdr = s.rxhdr := rfl
@[simp] theorem withAckm_txByte (a : Bool) (s : State) : txByte (s.withAckm a) = txByte s := rfl
@[simp] theorem withAckm_txEvent (a : Bool) (s : State) : txEvent (s.withAckm a) = txEvent s := rfl
@[simp] theorem withAckm_eventOf (a : Bool) (s : State) : eventOf (s.withAckm a) = eventOf s := rfl
@[simp] theorem takeRx_withAckm (a : Bool) (s : State) : takeRx (s.withAckm a) = (takeRx s).withAckm a := rfl
@[simp] theorem logReceived_withAckm (h : Header) (a : Bool) (s : State) :
    logReceived h (s.withAckm a) = (logReceived h s).withAckm a := rfl

/-! ## The deserializer -/

/-- Header completion reads no ACKM. -/
theorem headerComplete_withAckm (s : State) (a : Bool) :
    headerComplete (s.withAckm a) = (headerComplete s).withAckm a := by
  simp only [headerComplete, apply_ite (DesResult.withAckm a)]
  rfl

/-- A header byte is taken without reading ACKM. -/
theorem desHeaderByte_withAckm (b : Byte) (s : State) (a : Bool) :
    desHeaderByte b (s.withAckm a) = (desHeaderByte b s).withAckm a := by
  simp only [desHeaderByte, apply_ite (DesResult.withAckm a), ← headerComplete_withAckm]
  rfl

/-- A payload byte is stored without reading ACKM. -/
theorem storePayloadByte_withAckm (b : Byte) (s : State) (a : Bool) :
    storePayloadByte b (s.withAckm a) = (storePayloadByte b s).map (State.withAckm a) := by
  simp only [storePayloadByte, memWriteByte, apply_ite (Except.map (State.withAckm a))]
  rfl

/-- A payload byte is taken without reading ACKM. -/
theorem desPayloadByte_withAckm (b : Byte) (s : State) (a : Bool) :
    desPayloadByte b (s.withAckm a) = (desPayloadByte b s).withAckm a := by
  simp only [desPayloadByte, storePayloadByte_withAckm]
  cases storePayloadByte b s with
  | error f => rfl
  | ok s1 =>
    simp only [Except.map, apply_ite (DesResult.withAckm a)]
    rfl

/-- The deserializer reads no ACKM. -/
theorem desByte_withAckm (b : Byte) (s : State) (a : Bool) :
    desByte b (s.withAckm a) = (desByte b s).withAckm a := by
  simp only [desByte, apply_ite (DesResult.withAckm a), desHeaderByte_withAckm, desPayloadByte_withAckm]
  rfl

/-! ## Receive dispatch -/

/-- Receive dispatch reads no ACKM, if the acceptance action reads none. -/
theorem receive_alike {act : State → State} (hact : CommutesButAckm act) (h : Header) (s : State) (a : Bool) :
    AlikeButAckm (receive h act s) (receive h act (s.withAckm a)) := by
  simp only [receive, withAckm_state]
  cases s.state.expects with
  | none => exact .next s a
  | some e =>
    by_cases hc : classify h = e
    · obtain ⟨a', ha⟩ := hact (logReceived h s) a
      simp only [if_pos hc, logReceived_withAckm, ha]
      exact .next _ a'
    · simp only [if_neg hc]
      exact .next (rejectAs e h s) a

/-- The rejection of a packet reads no ACKM. -/
theorem receiveUnexpected_alike (h : Header) (s : State) (a : Bool) :
    AlikeButAckm (receiveUnexpected h s) (receiveUnexpected h (s.withAckm a)) := by
  simp only [receiveUnexpected, withAckm_state]
  cases s.state.expects with
  | none => exact .next s a
  | some e => exact .next (rejectAs e h s) a

/-- An error of the deserializer is taken without reading ACKM. -/
theorem receiveError_alike (c : ErrCode) (s : State) (a : Bool) :
    AlikeButAckm (receiveError c s) (receiveError c (s.withAckm a)) := by
  simp only [receiveError, withAckm_state]
  cases s.state.expects with
  | none => exact .next s a
  | some e => exact .next (fail c e (desErrorAct c) s) a

/-! ## The instructions -/

/-- Entering a send state reads no ACKM. -/
theorem enterSend_withAckm (st : FsmState) (q : Header) (s : State) (a : Bool) :
    enterSend st q (s.withAckm a) = (enterSend st q s).withAckm a := by
  simp only [enterSend, apply_ite (State.withAckm a)]
  rfl

/-- The acceptance of a SYN reads no ACKM. -/
theorem acceptSyn_commutes (seq : Word) : CommutesButAckm (acceptSyn seq) :=
  fun s a => ⟨a, enterSend_withAckm _ _ { s with irs := seq, pnx := plusOne seq } a⟩

/-- The acceptance of an ACK writes ACKM without reading it. -/
theorem acceptAck_commutes (ackNum : Word) : CommutesButAckm (acceptAck ackNum) :=
  fun s _ => ⟨ackMatches s.cfgIss ackNum, rfl⟩

/-- The acceptance of a FIN_ACK reads no ACKM. -/
theorem acceptFinAck_commutes : CommutesButAckm acceptFinAck := fun _ a => ⟨a, rfl⟩

/-- The copy of the payload reads no ACKM. -/
theorem copyPayload_withAckm (n : Nat) (s : State) (a : Bool) :
    copyPayload n (s.withAckm a) = (copyPayload n s).map (State.withAckm a) := by
  simp only [copyPayload, apply_ite (Except.map (State.withAckm a))]
  rfl

/-- The acceptance of a DATA packet reads no ACKM. -/
theorem acceptData_withAckm (len : Half) (s : State) (a : Bool) :
    acceptData len (s.withAckm a) = (acceptData len s).map (State.withAckm a) := by
  simp only [acceptData, copyPayload_withAckm]
  cases copyPayload len.toNat s with
  | error f => rfl
  | ok s1 => exact congrArg Except.ok (enterSend_withAckm _ _ { s1 with dataLen := len } a)

/-- A DATA packet is run without reading ACKM. -/
theorem execData_alike (seq ackNum : Word) (len : Half) (s : State) (a : Bool) :
    AlikeButAckm (execData seq ackNum len s) (execData seq ackNum len (s.withAckm a)) := by
  simp only [execData, withAckm_state]
  cases s.state.expects with
  | none => exact .next s a
  | some e =>
    by_cases hc : classify ⟨seq, ackNum, len, Config.flagsData⟩ = e
    · simp only [if_pos hc, logReceived_withAckm, acceptData_withAckm]
      cases acceptData len (logReceived ⟨seq, ackNum, len, Config.flagsData⟩ s) with
      | error f => exact .fault f
      | ok t => exact .next t a
    · simp only [if_neg hc]
      exact .next (rejectAs e ⟨seq, ackNum, len, Config.flagsData⟩ s) a

/-- The serializer reads no ACKM. -/
theorem serEvent_withAckm (e : TxEvent) (s : State) (a : Bool) :
    serEvent e (s.withAckm a) = (serEvent e s).withAckm a := by
  cases e with
  | txErr => rfl
  | accepted =>
    simp only [serEvent_accepted, serAccept, withAckm_txByte]
    cases txByte s with
    | error f => rfl
    | ok b =>
      simp only [apply_ite (SerResult.withAckm a)]
      rfl

/-- A step of sending reads no ACKM. -/
theorem sendStep_alike (k : Kind) (nxt : FsmState) (s : State) (a : Bool) :
    AlikeButAckm (sendStep k nxt s) (sendStep k nxt (s.withAckm a)) := by
  simp only [sendStep, withAckm_txEvent, serEvent_withAckm]
  cases txEvent s with
  | none => exact .next s a
  | some e =>
    dsimp only
    cases serEvent e s with
    | more s1 => exact .next s1 a
    | sent s1 => exact .next (sendComplete k nxt s1) a
    | raised c s1 => exact .next (fail c .none .none s1) a
    | fault f => exact .fault f

/-- Every instruction is run without reading ACKM. -/
theorem exec_alike (i : Instr) (s : State) (a : Bool) : AlikeButAckm (exec i s) (exec i (s.withAckm a)) := by
  cases i with
  | data seq ackNum len => exact execData_alike seq ackNum len s a
  | syn seq ackNum len => exact receive_alike (acceptSyn_commutes seq) _ s a
  | ack seq ackNum len => exact receive_alike (acceptAck_commutes ackNum) _ s a
  | finAck seq ackNum len => exact receive_alike acceptFinAck_commutes _ s a
  | fin seq ackNum len =>
    simp only [exec, execFin]
    exact .ite (sendStep_alike _ _ s a) (receiveUnexpected_alike _ s a)
  | synAck seq ackNum len =>
    simp only [exec, execSynAck, receiveSynAck]
    exact .ite (sendStep_alike _ _ s a) (.ite (receiveError_alike _ s a) (receiveUnexpected_alike _ s a))

/-! ## The step -/

/-- A packet is delivered without reading ACKM. -/
theorem deliver_alike (s : State) (a : Bool) : AlikeButAckm (deliver s) (deliver (s.withAckm a)) := by
  simp only [deliver, withAckm_rxhdr]
  cases decodeHeader s.rxhdr with
  | ok i => exact exec_alike i s a
  | error d => exact receiveUnexpected_alike _ s a

/-- What a taken byte leads to does not depend on ACKM. -/
theorem afterByte_alike (r : DesResult) (a : Bool) : AlikeButAckm (afterByte r) (afterByte (r.withAckm a)) := by
  cases r with
  | more s => exact .next s a
  | complete s => exact deliver_alike s a
  | raised e s => exact receiveError_alike e s a
  | fault f => exact .fault f

/-- The effect of a cycle's event does not depend on ACKM. -/
theorem runEvent_alike (s : State) (a : Bool) : AlikeButAckm (runEvent s) (runEvent (s.withAckm a)) := by
  simp only [runEvent, withAckm_eventOf]
  cases eventOf s with
  | none => exact .next s a
  | some ev =>
    cases ev with
    | reset => exact .next (resetBlock s) false
    | start => exact .next (startBlock s) false
    | byte b =>
      simp only [takeRx_withAckm, desByte_withAckm]
      exact afterByte_alike _ a
    | eos => exact receiveError_alike .truncatedStream s a
    | tx e => exact exec_alike (sendInstr s) s a

/-- The beginning of a cycle reads no ACKM. -/
theorem beginCycle_withAckm (s : State) (a : Bool) :
    beginCycle (s.withAckm a) = (beginCycle s).map (State.withAckm a) := by
  simp only [beginCycle, apply_ite (Except.map (State.withAckm a))]
  rfl

/-- A step does not depend on ACKM. -/
theorem step_alike (s : State) (a : Bool) : AlikeButAckm (step s) (step (s.withAckm a)) := by
  simp only [step, beginCycle_withAckm]
  cases beginCycle s with
  | error r => exact .refused r
  | ok s1 => exact runEvent_alike s1 a

end Sys2Proof.Machine

open Sys2Proof Sys2Proof.Machine

/-- Settles O59: the step reads no ACKM, operation by operation. -/
theorem ackmInfluencesNothing : Obligations.AckmInfluencesNothing := by
  intro s a
  have h : AlikeButAckm (step s) (step { s with ackm := a }) := step_alike s a
  generalize step { s with ackm := a } = o' at h ⊢
  generalize step s = o at h ⊢
  cases h with
  | next t a' => exact ⟨a', rfl⟩
  | fault f => rfl
  | refused r => rfl
end

section
/-!
SUPPORT. What an instruction answers in the states where it does nothing or cannot be run, and what the host reads of
the recorded payload.
-/

namespace Sys2Proof.Machine

/-- A send step with no TX event is a wait (R55). -/
theorem sendStep_wait {k : Kind} {nxt : FsmState} {s : State} (h : txEvent s = none) : sendStep k nxt s = .next s := by
  simp only [sendStep, h]

/-- SYN_ACK in SYN_RECEIVED is one step of sending it (R134). -/
theorem exec_synAck_of_synReceived {seq a : Word} {len : Half} {s : State} (h : s.state = .synReceived) :
    exec (.synAck seq a len) s = sendStep .synAck .synAckSent s :=
  if_pos h

/-- FIN in DATA_RECEIVED is one step of sending it (R137). -/
theorem exec_fin_of_dataReceived {seq a : Word} {len : Half} {s : State} (h : s.state = .dataReceived) :
    exec (.fin seq a len) s = sendStep .fin .finSent s :=
  if_pos h

/-- A DATA packet with a payload in ESTABLISHED is of the kind expected: where its acceptance stops, so does the
instruction (R136). -/
theorem exec_data_fault {seq a : Word} {len : Half} {s : State} {f : Fault} (h : s.state = .established)
    (hpos : 0 < len.toNat) (ha : acceptData len (logReceived ⟨seq, a, len, Config.flagsData⟩ s) = .error f) :
    exec (.data seq a len) s = .fault f := by
  have hexp : s.state.expects = some .data := by rw [h]; rfl
  have hkind : classify ⟨seq, a, len, Config.flagsData⟩ = .data :=
    (classify_header (.data seq a len)).trans (if_pos hpos)
  simp only [exec, execData, hexp, hkind, if_true, ha]

/-- The acceptance of a payload longer than the buffers stops at the first missing cell (log entry 5). -/
theorem acceptData_tooLong {len : Half} {s : State} (h : 2048 < len.toNat) :
    acceptData len s = .error (.noSuchCell .rxbuf 2048) := by
  have hcopy : copyPayload len.toNat s = .error (.noSuchCell .rxbuf 2048) := if_neg (Nat.not_le.2 h)
  simp only [acceptData, hcopy]

/-- A cell that holds a byte reads as that byte. -/
theorem cellByte_of_read? {sp : Space} {i : Nat} {b : Byte} {s : State} (h : (s.mem sp).read? i = some b) :
    cellByte sp i s = b := by
  simp only [cellByte, h, Option.getD_some]

end Sys2Proof.Machine

open Sys2Proof Sys2Proof.Machine

/-- Settles O18: below DATA_LEN the read is of the cell, which holds a byte. -/
theorem hostReadsTheRecordedCell : Obligations.HostReadsTheRecordedCell := by
  intro s addr b haddr hcell
  exact (if_pos haddr).trans (cellByte_of_read? hcell)

/-- Settles O27: the ports show no TX event, and a send step without one is a wait. -/
theorem sendWaitsUnchanged : Obligations.SendWaitsUnchanged := by
  intro seq ackNum len s herr hready
  have hnone : txEvent s = none := by simp only [txEvent, herr, hready, Bool.false_eq_true, if_false]
  constructor
  · intro hst
    rw [exec_synAck_of_synReceived hst, sendStep_wait hnone]
  · intro hst
    rw [exec_fin_of_dataReceived hst, sendStep_wait hnone]

/-- Settles O31: the packet is of the kind expected, and its acceptance stops in the copy of the payload. -/
theorem dataLongerThanTheBufferStops : Obligations.DataLongerThanTheBufferStops := by
  intro seq ackNum len s hst hlen
  exact exec_data_fault hst (by omega) (acceptData_tooLong hlen)
end

section
/-!
SUPPORT. When a step of the machine ends in a fault, and that no state which meets the invariant has such a step.
-/

namespace Sys2Proof.Machine

/-- When the delivery of a packet in a receive state stops the model: its payload is longer than the buffers. -/
theorem deliver_fault {s : State} {e : Kind} {f : Fault} (he : s.state.expects = some e) (h : deliver s = .fault f) :
    2048 < rxLen s := by
  unfold deliver at h
  cases hd : decodeHeader s.rxhdr with
  | error d =>
    simp only [hd, receiveUnknown, receiveUnexpected, he] at h
    cases h
  | ok i =>
    simp only [hd] at h
    obtain ⟨hi, _⟩ := decodeFields_ok hd
    rcases exec_fault h with ⟨_, seq, a, len, rfl, hlen⟩ | ⟨hsend, _⟩
    · show 2048 < (rxHeader s).len.toNat
      rw [show rxHeader s = (Instr.data seq a len).header from hi.symm]
      exact hlen
    · rw [expects_of_isSend hsend] at he
      cases he

/-- When the effect of an event stops the model: the deserializer stops on the byte, a delivered payload is longer than
the buffers, or the byte a send state offers has no cell. -/
theorem runEvent_fault {s : State} {f : Fault} (h : runEvent s = .fault f) :
    (∃ b, eventOf s = some (.byte b) ∧ desByte b (takeRx s) = .fault f) ∨
    (∃ b s2, desByte b (takeRx s) = .complete s2 ∧ 2048 < rxLen s2) ∨
    (s.state.isSend = true ∧ txByte s = .error f) := by
  unfold runEvent at h
  cases hev : eventOf s with
  | none => rw [hev] at h; cases h
  | some ev =>
    rw [hev] at h
    cases ev with
    | reset => cases h
    | start => cases h
    | byte b =>
      obtain ⟨_, ⟨e, he⟩, _⟩ := eventOf_byte hev
      simp only at h
      cases hd : desByte b (takeRx s) with
      | more s2 => rw [hd] at h; cases h
      | complete s2 =>
        rw [hd] at h
        have he2 : s2.state.expects = some e := by rw [(desByte_complete_same hd).state]; exact he
        exact .inr (.inl ⟨b, s2, hd, deliver_fault he2 h⟩)
      | raised c s2 =>
        have he2 : s2.state.expects = some e := by rw [(desByte_raised_same hd).state]; exact he
        simp only [hd, afterByte, receiveError, he2] at h
        cases h
      | fault f' => rw [hd] at h; cases h; exact .inl ⟨b, rfl, hd⟩
    | eos =>
      obtain ⟨e, he⟩ := eventOf_eos hev
      simp only [receiveError, he] at h
      cases h
    | tx e =>
      obtain ⟨hs, _⟩ := eventOf_tx hev
      rcases exec_sendInstr hs with ⟨_, hx⟩ | ⟨_, hx⟩ <;>
        exact .inr (.inr ⟨hs, sendStep_fault (hx.symm.trans h)⟩)

/-- From the invariant the deserializer never stops (R25, R56). -/
theorem Inv.desByte_ne_fault {s : State} {b : Byte} {f : Fault} (h : Inv s) (hr : s.state.isReceive = true) :
    desByte b s ≠ .fault f := by
  intro hd
  obtain ⟨hge, hbad⟩ := desByte_fault hd
  rcases (h.receiving hr).2 with ⟨hlt, _⟩ | ⟨hh, hp, hlen, _⟩
  · exact Nat.not_lt.2 hge hlt
  · simp only [Config.maxPayload] at hlen
    rcases hbad with hne | hge | hge
    · exact hne hh
    · omega
    · omega

/-- From the invariant the byte a send state offers has a cell: it is one of TXHDR's (R25, R30). -/
theorem Inv.txByte_ne_error {s : State} {f : Fault} (h : Inv s) (hs : s.state.isSend = true) : txByte s ≠ .error f := by
  obtain ⟨_, _, hcnt⟩ := h.sending hs
  intro he
  rw [txByte, if_pos hcnt] at he
  cases he

/-- From the invariant no event's effect stops the model. -/
theorem Inv.runEvent_ne_fault {s : State} {f : Fault} (h : Inv s) : runEvent s ≠ .fault f := by
  intro hrun
  rcases runEvent_fault hrun with ⟨b, hev, hd⟩ | ⟨b, s2, hd, hlen⟩ | ⟨hs, hb⟩
  · obtain ⟨_, ⟨e, he⟩, _⟩ := eventOf_byte hev
    exact h.takeRx.desByte_ne_fault (isReceive_of_expects he) hd
  · exact Nat.not_lt.2 (desByte_complete_len hd) hlen
  · exact h.txByte_ne_error hs hb

end Sys2Proof.Machine

open Sys2Proof Sys2Proof.Machine

/-- Settles O52: the cycle's beginning keeps the invariant, from which no event's effect is a fault. -/
theorem noStepFaultsFromTheInvariant : Obligations.NoStepFaultsFromTheInvariant := by
  intro s h f hstep
  cases hb : beginCycle s with
  | error r => simp only [step, hb] at hstep; cases hstep
  | ok s1 =>
    rw [step_of_begin hb, beginCycle_ok hb] at hstep
    exact (h.openCycle _).runEvent_ne_fault hstep
end

section
/-!
SUPPORT. The trace and the pulses of a step (R35, R65): what is emitted is shown and recorded at once.
-/

namespace Sys2Proof.Machine

/-- The events a state's pulses show: the log event, then the close. -/
def shownEvents (s : State) : List OutEvent :=
  s.logPulse.toList.map OutEvent.log ++ if s.epClosePulse = true then [.epClose] else []

/-- The trace is `past` followed by what the pulses show. -/
def TraceShows (past : List OutEvent) (s : State) : Prop := s.trace = past ++ shownEvents s

/-- No pulse is shown. -/
abbrev NoPulse (s : State) : Prop := s.epClosePulse = false ∧ s.logPulse = none

/-- With no pulse shown, nothing was emitted since. -/
theorem NoPulse.traceShows {s : State} (h : NoPulse s) : TraceShows s.trace s := by
  obtain ⟨hclose, hlog⟩ := h
  simp [TraceShows, shownEvents, hclose, hlog]

/-- A log event emitted with no pulse shown. -/
theorem NoPulse.traceShows_emitLog {s : State} (h : NoPulse s) (e : LogEvent) : TraceShows s.trace (emitLog e s) := by
  obtain ⟨hclose, _⟩ := h
  simp [TraceShows, shownEvents, hclose]

/-- A close emitted where none is shown comes after the log event. -/
theorem TraceShows.emitEpClose {past : List OutEvent} {s : State} (h : TraceShows past s)
    (hclose : s.epClosePulse = false) : TraceShows past (emitEpClose s) := by
  simp_all [TraceShows, shownEvents]

/-- FAIL where no close is shown (R187). -/
theorem TraceShows.fail {past : List OutEvent} {s : State} (h : TraceShows past s) (hclose : s.epClosePulse = false)
    (c : ErrCode) (x a : Kind) : TraceShows past (fail c x a s) :=
  TraceShows.emitEpClose (s := { s with err := ⟨c, s.state, x, a⟩, state := .failed }) h hclose

/-- Entering a send state emits nothing, or the close of FAIL. -/
theorem TraceShows.enterSend {past : List OutEvent} {s : State} (h : TraceShows past s)
    (hclose : s.epClosePulse = false) (st : FsmState) (q : Header) : TraceShows past (enterSend st q s) := by
  have hloaded : TraceShows past { s with txhdr := q.toBits, txcnt := 0#12, state := st } := h
  rcases enterSend_cases st q s with e | e <;> rw [e]
  · exact hloaded
  · exact hloaded.fail hclose _ _ _

/-- The delivery of a packet shows what it emits (R131, R138). -/
theorem deliver_traceShows {s t : State} {e : Kind} (hlen : rxLen s ≤ 2048) (he : s.state.expects = some e)
    (hp : NoPulse s) (h : deliver s = .next t) : TraceShows s.trace t := by
  have hclose : s.epClosePulse = false := hp.1
  have hlog : TraceShows s.trace (logReceived (rxHeader s) s) := hp.traceShows_emitLog _
  rcases deliver_cases hlen he h with ⟨_, rfl⟩ | ⟨_, rfl⟩ | ⟨_, _, rfl⟩ | ⟨_, _, rfl⟩ | ⟨_, _, _, ha⟩ | ⟨_, _, rfl⟩
  · exact hlog.fail hclose _ _ _
  · exact hp.traceShows.fail hclose _ _ _
  · exact TraceShows.enterSend (by exact hlog) (by exact hclose) _ _
  · exact hlog
  · obtain ⟨_, rfl⟩ := acceptData_ok ha
    exact TraceShows.enterSend (by exact hlog) (by exact hclose) _ _
  · exact TraceShows.emitEpClose (by exact hlog) hclose

/-- A step of sending shows what it emits (R132). -/
theorem sendStep_traceShows {k : Kind} {nxt : FsmState} {s t : State} (hp : NoPulse s)
    (h : sendStep k nxt s = .next t) : TraceShows s.trace t := by
  rcases sendStep_next h with ⟨_, rfl⟩ | ⟨_, rfl⟩ | ⟨_, b, _, ⟨_, rfl⟩ | ⟨_, rfl⟩⟩
  · exact hp.traceShows
  · exact hp.traceShows.fail hp.1 _ _ _
  · exact hp.traceShows
  · exact NoPulse.traceShows_emitLog (s := { s with txOut := s.txOut ++ [b], txcnt := 0#12 }) hp _

/-- A byte taken emits nothing. -/
theorem SameButReceiveUnit.noPulse {s t : State} (h : SameButReceiveUnit (takeRx s) t) (hp : NoPulse s) : NoPulse t :=
  ⟨h.epClosePulse.trans hp.1, h.logPulse.trans hp.2⟩

/-- The effect of an event shows what it emits. -/
theorem runEvent_traceShows {s t : State} (hp : NoPulse s) (h : runEvent s = .next t) : TraceShows s.trace t := by
  rcases runEvent_next h with ⟨_, rfl⟩ | ⟨_, rfl⟩ | ⟨_, rfl⟩ | ⟨b, _, hd⟩ | ⟨b, e, c, s2, _, _, hd, rfl⟩ |
    ⟨b, e, s2, _, he, hst, hd, hdel⟩ | ⟨e, _, _, rfl⟩ | ⟨hs, hx⟩
  · exact hp.traceShows
  · exact hp.traceShows
  · exact hp.traceShows
  · have hsame := desByte_more_same hd
    exact hsame.trace ▸ (hsame.noPulse hp).traceShows
  · have hsame := desByte_raised_same hd
    have hp2 := hsame.noPulse hp
    exact TraceShows.fail (hsame.trace ▸ hp2.traceShows) hp2.1 _ _ _
  · have hsame := desByte_complete_same hd
    exact hsame.trace ▸ deliver_traceShows (desByte_complete_len hd) (hst ▸ he) (hsame.noPulse hp) hdel
  · exact hp.traceShows.fail hp.1 _ _ _
  · rcases exec_sendInstr hs with ⟨_, e⟩ | ⟨_, e⟩ <;> rw [e] at hx <;> exact sendStep_traceShows hp hx

end Sys2Proof.Machine

open Sys2Proof Sys2Proof.Machine

/-- Settles O55: the cycle's beginning ends the pulses and leaves the trace, and the event shows what it emits. -/
theorem traceIsThePulses : Obligations.TraceIsThePulses := by
  intro s t hstep
  obtain ⟨s1, _, rfl, hrun⟩ := step_next hstep
  have h : TraceShows s.trace t := runEvent_traceShows (s := openCycle (nextCycle s) s) ⟨rfl, rfl⟩ hrun
  rw [List.append_assoc]
  exact h
end

section
/-!
SUPPORT. The two streams (R59, R60): only the deserializer takes a byte, and only an acceptance of the serializer
appends one.
-/

namespace Sys2Proof.Machine

/-- Neither stream moves. -/
abbrev SameStreams (s t : State) : Prop := t.rxIn = s.rxIn ∧ t.txOut = s.txOut

/-- Exactly the next byte of the RX stream is taken, in a receive state. -/
abbrev TakesOne (s t : State) : Prop := rxReady s = true ∧ t.txOut = s.txOut ∧ ∃ b, s.rxIn = b :: t.rxIn

/-- Exactly one byte is appended to the TX stream, in a send state. -/
abbrev SendsOne (s t : State) : Prop := txValid s = true ∧ t.rxIn = s.rxIn ∧ ∃ b, t.txOut = s.txOut ++ [b]

/-- Entering a send state moves neither stream. -/
theorem enterSend_sameStreams (st : FsmState) (q : Header) (s : State) : SameStreams s (enterSend st q s) := by
  rcases enterSend_cases st q s with e | e <;> rw [e] <;> exact ⟨rfl, rfl⟩

/-- The delivery of a packet moves neither stream: its bytes have been taken. -/
theorem deliver_sameStreams {s t : State} {e : Kind} (hlen : rxLen s ≤ 2048) (he : s.state.expects = some e)
    (h : deliver s = .next t) : SameStreams s t := by
  rcases deliver_cases hlen he h with ⟨_, rfl⟩ | ⟨_, rfl⟩ | ⟨_, _, rfl⟩ | ⟨_, _, rfl⟩ | ⟨_, _, _, ha⟩ | ⟨_, _, rfl⟩
  · exact ⟨rfl, rfl⟩
  · exact ⟨rfl, rfl⟩
  · exact enterSend_sameStreams _ _ _
  · exact ⟨rfl, rfl⟩
  · obtain ⟨_, rfl⟩ := acceptData_ok ha
    exact enterSend_sameStreams _ _ _
  · exact ⟨rfl, rfl⟩

/-- A step of sending appends at most one byte (R132). -/
theorem sendStep_streams {k : Kind} {nxt : FsmState} {s t : State} (hs : s.state.isSend = true)
    (h : sendStep k nxt s = .next t) : SameStreams s t ∨ SendsOne s t := by
  rcases sendStep_next h with ⟨_, rfl⟩ | ⟨_, rfl⟩ | ⟨_, b, _, ⟨_, rfl⟩ | ⟨_, rfl⟩⟩
  · exact .inl ⟨rfl, rfl⟩
  · exact .inl ⟨rfl, rfl⟩
  · exact .inr ⟨hs, rfl, b, rfl⟩
  · exact .inr ⟨hs, rfl, b, rfl⟩

/-- The RX event takes the first byte, and what it leads to moves no stream. -/
theorem takesOne_of_byte {s t : State} {b : Byte} (hev : eventOf s = some (.byte b))
    (h : SameStreams (takeRx s) t) : TakesOne s t := by
  obtain ⟨_, ⟨e, he⟩, bs, hin⟩ := eventOf_byte hev
  obtain ⟨hrx, htx⟩ := h
  refine ⟨isReceive_of_expects he, htx, b, ?_⟩
  rw [hrx, takeRx_rxIn, hin, List.tail_cons]

/-- What the effect of an event does to the streams. -/
theorem runEvent_streams {s t : State} (h : runEvent s = .next t) : SameStreams s t ∨ TakesOne s t ∨ SendsOne s t := by
  rcases runEvent_next h with ⟨_, rfl⟩ | ⟨_, rfl⟩ | ⟨_, rfl⟩ | ⟨b, hev, hd⟩ | ⟨b, e, c, s2, hev, _, hd, rfl⟩ |
    ⟨b, e, s2, hev, he, hst, hd, hdel⟩ | ⟨e, _, _, rfl⟩ | ⟨hs, hx⟩
  · exact .inl ⟨rfl, rfl⟩
  · exact .inl ⟨rfl, rfl⟩
  · exact .inl ⟨rfl, rfl⟩
  · have hsame := desByte_more_same hd
    exact .inr (.inl (takesOne_of_byte hev ⟨hsame.rxIn, hsame.txOut⟩))
  · have hsame := desByte_raised_same hd
    exact .inr (.inl (takesOne_of_byte hev ⟨hsame.rxIn, hsame.txOut⟩))
  · have hsame := desByte_complete_same hd
    obtain ⟨hrx, htx⟩ := deliver_sameStreams (desByte_complete_len hd) (hst ▸ he) hdel
    exact .inr (.inl (takesOne_of_byte hev ⟨hrx.trans hsame.rxIn, htx.trans hsame.txOut⟩))
  · exact .inl ⟨rfl, rfl⟩
  · have hmove : SameStreams s t ∨ SendsOne s t := by
      rcases exec_sendInstr hs with ⟨_, e⟩ | ⟨_, e⟩ <;> rw [e] at hx <;> exact sendStep_streams hs hx
    exact hmove.imp_right .inr

end Sys2Proof.Machine

open Sys2Proof Sys2Proof.Machine

/-- Settles O58: the event of the opened cycle, whose STATE is the old one, moves at most one stream by one byte. -/
theorem streamsMoveInOrder : Obligations.StreamsMoveInOrder := by
  intro s t hstep
  obtain ⟨s1, hb, rfl, hrun⟩ := step_next hstep
  exact ⟨_, hb, runEvent_streams hrun⟩
end

section
/-!
SUPPORT. The recorded payload (R57): DATABUF and DATA_LEN are written by a DATA acceptance, and DATA_LEN is cleared by
start and reset.
-/

namespace Sys2Proof.Machine

/-- DATABUF and DATA_LEN hold the same. -/
abbrev SameRecord (s t : State) : Prop := t.databuf = s.databuf ∧ t.dataLen = s.dataLen

/-- A received DATA packet is logged and recorded, in ESTABLISHED: DATA_LEN is its length, and DATABUF takes RXBUF's
cells below it. -/
abbrev RecordsData (s t : State) : Prop :=
  s.state = .established ∧
    ∃ seq a len, t.logPulse = some ⟨false, .data, seq, a, len, 0x0000#16⟩ ∧ t.dataLen = len ∧ 0 < len.toNat ∧
      (∀ i, i < len.toNat → t.databuf.read? i = t.rxbuf.read? i) ∧
      (∀ i, len.toNat ≤ i → t.databuf.read? i = s.databuf.read? i)

/-- Entering a send state leaves the record alone. -/
theorem enterSend_sameRecord (st : FsmState) (q : Header) (s : State) : SameRecord s (enterSend st q s) := by
  rcases enterSend_cases st q s with e | e <;> rw [e] <;> exact ⟨rfl, rfl⟩

/-- What the acceptance of a DATA packet leaves in DATA_LEN and the buffers; the log event stays shown (R136). -/
theorem acceptData_record {len : Half} {s t : State} (h : acceptData len s = .ok t) :
    t.dataLen = len ∧ t.databuf = Memory.copyLow len.toNat s.rxbuf s.databuf ∧ t.rxbuf = s.rxbuf ∧
      t.logPulse = s.logPulse := by
  obtain ⟨_, rfl⟩ := acceptData_ok h
  rcases enterSend_cases .dataReceived (mkFin s.pnx 0#32).toHeader
    { s with databuf := Memory.copyLow len.toNat s.rxbuf s.databuf, dataLen := len } with e | e <;>
    rw [e] <;> exact ⟨rfl, rfl, rfl, rfl⟩

/-- A header of kind DATA has DATA's flags (R119, R121). -/
theorem flags_of_classify_data {h : Header} (hk : classify h = .data) : h.flags = Config.flagsData := by
  unfold classify at hk
  repeat' split at hk
  all_goals cases hk
  next hdata =>
    simp only [isData, Bool.and_eq_true, decide_eq_true_eq] at hdata
    exact hdata.1

/-- The acceptance of a delivered DATA packet records it (R136). -/
theorem recordsData_of_acceptData {s t : State} (hst : s.state = .established) (hk : classify (rxHeader s) = .data)
    (hpos : 0 < rxLen s) (ha : acceptData (rxHeader s).len (logReceived (rxHeader s) s) = .ok t) : RecordsData s t := by
  obtain ⟨hlen, hbuf, hrx, hlog⟩ := acceptData_record ha
  refine ⟨hst, (rxHeader s).seq, (rxHeader s).ack, (rxHeader s).len, ?_, hlen, hpos, fun i hi => ?_, fun i hi => ?_⟩
  · rw [hlog, logReceived_logPulse, hk, flags_of_classify_data hk]
  · rw [hbuf, hrx, Memory.read?_copyLow, if_pos hi]
  · rw [hbuf, Memory.read?_copyLow, if_neg (Nat.not_lt.2 hi), logReceived_databuf]

/-- The delivery of a packet leaves the record alone, or records a DATA packet (R131). -/
theorem deliver_record {s t : State} {e : Kind} (hlen : rxLen s ≤ 2048) (he : s.state.expects = some e)
    (h : deliver s = .next t) : SameRecord s t ∨ RecordsData s t := by
  rcases deliver_cases hlen he h with ⟨_, rfl⟩ | ⟨_, rfl⟩ | ⟨_, _, rfl⟩ | ⟨_, _, rfl⟩ | ⟨hst, hk, hpos, ha⟩ | ⟨_, _, rfl⟩
  · exact .inl ⟨rfl, rfl⟩
  · exact .inl ⟨rfl, rfl⟩
  · exact .inl (enterSend_sameRecord _ _ _)
  · exact .inl ⟨rfl, rfl⟩
  · exact .inr (recordsData_of_acceptData hst hk hpos ha)
  · exact .inl ⟨rfl, rfl⟩

/-- A step of sending leaves the record alone (R132). -/
theorem sendStep_sameRecord {k : Kind} {nxt : FsmState} {s t : State} (h : sendStep k nxt s = .next t) :
    SameRecord s t := by
  rcases sendStep_next h with ⟨_, rfl⟩ | ⟨_, rfl⟩ | ⟨_, _, _, ⟨_, rfl⟩ | ⟨_, rfl⟩⟩ <;> exact ⟨rfl, rfl⟩

/-- What the effect of an event does to the record: nothing, a clear of DATA_LEN by reset or start, or the record of a
DATA packet. -/
theorem runEvent_record {s t : State} (h : runEvent s = .next t) :
    SameRecord s t ∨
    (t.databuf = s.databuf ∧ t.dataLen = 0#16 ∧ (t.state = .idle ∨ t.state = .listening)) ∨
    RecordsData s t := by
  rcases runEvent_next h with ⟨_, rfl⟩ | ⟨_, rfl⟩ | ⟨_, rfl⟩ | ⟨b, _, hd⟩ | ⟨b, e, c, s2, _, _, hd, rfl⟩ |
    ⟨b, e, s2, _, he, hst, hd, hdel⟩ | ⟨e, _, _, rfl⟩ | ⟨hs, hx⟩
  · exact .inl ⟨rfl, rfl⟩
  · exact .inr (.inl ⟨rfl, rfl, .inl rfl⟩)
  · exact .inr (.inl ⟨rfl, rfl, .inr rfl⟩)
  · have hsame := desByte_more_same hd
    exact .inl ⟨hsame.databuf, hsame.dataLen⟩
  · have hsame := desByte_raised_same hd
    exact .inl ⟨hsame.databuf, hsame.dataLen⟩
  · have hsame := desByte_complete_same hd
    have hrec := deliver_record (desByte_complete_len hd) (hst ▸ he) hdel
    simp only [SameRecord, RecordsData, hsame.databuf, hsame.dataLen, hst, takeRx_databuf, takeRx_dataLen] at hrec
    exact hrec.imp_right .inr
  · exact .inl ⟨rfl, rfl⟩
  · rcases exec_sendInstr hs with ⟨_, e⟩ | ⟨_, e⟩ <;> rw [e] at hx <;> exact .inl (sendStep_sameRecord hx)

end Sys2Proof.Machine

open Sys2Proof Sys2Proof.Machine

/-- Settles O57: the cycle's beginning leaves the record alone, and of its events only start, reset and the acceptance
of a DATA packet write it. -/
theorem databufChangesAtDataAcceptanceOnly : Obligations.DatabufChangesAtDataAcceptanceOnly := by
  intro s t hstep
  obtain ⟨s1, _, rfl, hrun⟩ := step_next hstep
  rcases runEvent_record hrun with ⟨hbuf, hlen⟩ | ⟨hbuf, hzero, hst⟩ | hrec
  · exact .inl ⟨hbuf, .inl hlen⟩
  · exact .inl ⟨hbuf, .inr ⟨hzero, hst⟩⟩
  · exact .inr hrec
end

section
/-!
SUPPORT. A whole packet on the stream (R59, R79, R93 to R96): what the deserializer makes of its bytes, and the run of
the machine that takes them, which is the deserializer's run with the environment moving beside it.
-/

namespace Sys2Proof.Machine

/-! ## The deserializer on a whole packet -/

/-- The bytes of a header, shifted in, leave the header in the register, whatever was there (R22, R72). -/
theorem foldl_shiftIn_bytes (H : HeaderBits) (h : Header) : h.bytes.foldl shiftIn H = h.toBits := by
  refine (shiftIn_twelve H _ _ _ _ _ _ _ _ _ _ _ _).trans ?_
  rw [be32_bytes, be32_bytes, be16_bytes, be16_bytes]

/-- From the start of a packet, the deserializer comes to the twelfth header byte, which completes the header the bytes
spell (R93, R94). -/
theorem desRun_headerBytes (h : Header) (bs : List Byte) (eos : Bool) {s : State} (hh : s.rxhcnt = 0#4) :
    ∃ b s1, desRun (h.bytes ++ bs) eos s = desRun (b :: bs) eos s1 ∧
      desByte b s1 = headerComplete { s with rxhdr := h.toBits, rxhcnt := 12#4 } := by
  obtain ⟨hs, b, hbytes⟩ : ∃ hs b, h.bytes = hs ++ [b] :=
    ⟨_, _, (List.dropLast_concat_getLast (List.ne_nil_of_length_pos (by simp))).symm⟩
  have hlen : hs.length = 11 := by
    have := congrArg List.length hbytes
    simp only [Header.bytes_length, List.length_append, List.length_cons, List.length_nil] at this
    omega
  have hspelt : shiftIn (hs.foldl shiftIn s.rxhdr) b = h.toBits := by
    rw [← foldl_shiftIn_bytes s.rxhdr h, hbytes, List.foldl_append]
    rfl
  refine ⟨b, { s with rxhdr := hs.foldl shiftIn s.rxhdr, rxhcnt := 11#4 }, ?_, ?_⟩
  · rw [hbytes, List.append_assoc, desRun_header hs _ eos s (by simp [hh, hlen]), hh, hlen]
    rfl
  · rw [desByte_headerLast rfl, afterHeaderByte, hspelt]
    rfl

/-- A packet whose header R94 lets pass is delivered whole, in RXHDR and RXBUF, and what follows it is left (R95,
R96). -/
theorem desRun_packet {h : Header} {payload : List Byte} {s : State} (rest : List Byte) (eos : Bool)
    (hlen : payload.length = h.len.toNat) (hmax : h.len.toNat ≤ 2048)
    (hflags : s.cfgStrict = true → definedFlags h.flags = true) (hh : s.rxhcnt = 0#4) :
    ∃ t, desRun (h.bytes ++ (payload ++ rest)) eos s = .delivered t rest ∧
      t.rxhdr = h.toBits ∧ t.rxhcnt = 0#4 ∧ t.rxpcnt = 0#12 ∧
      ∀ j, t.rxbuf.read? j = if j < payload.length then payload[j]? else s.rxbuf.read? j := by
  obtain ⟨b, s1, hrun, hbyte⟩ := desRun_headerBytes h (payload ++ rest) eos hh
  have hhdr : rxHeader { s with rxhdr := h.toBits, rxhcnt := 12#4 } = h := Header.ofBits_toBits h
  have hrxlen : rxLen { s with rxhdr := h.toBits, rxhcnt := 12#4 } = payload.length := by rw [rxLen, hhdr, hlen]
  rw [hrun, desRun, hbyte]
  rcases headerComplete_cases { s with rxhdr := h.toBits, rxhcnt := 12#4 } with ⟨hbad, _⟩ | ⟨_, hs, hbad, _⟩ |
    ⟨_, _, hzero, hc⟩ | ⟨_, _, hne, hc⟩
  · omega
  · rw [hhdr, hflags hs] at hbad
    cases hbad
  · rw [hrxlen, List.length_eq_zero_iff] at hzero
    subst hzero
    rw [hc]
    exact ⟨_, rfl, rfl, rfl, rfl, fun j => rfl⟩
  · have hstart : rxLen { s with rxhdr := h.toBits, rxhcnt := 12#4, rxpcnt := 0#12 } = payload.length := hrxlen
    rw [hc]
    rcases desRun_payload (payload ++ rest) eos { s with rxhdr := h.toBits, rxhcnt := 12#4, rxpcnt := 0#12 } rfl
      (by rw [hstart]; exact Nat.pos_of_ne_zero (hrxlen ▸ hne)) (by omega) with
      ⟨hshort, _⟩ | ⟨_, t, hdel, hhdr', hhcnt, hpcnt, hbuf⟩
    · rw [hstart, List.length_append] at hshort
      simp only [BitVec.toNat_ofNat] at hshort
      omega
    · simp only [hstart, BitVec.toNat_ofNat, Nat.zero_mod, Nat.sub_zero, Nat.zero_le, true_and] at hdel hbuf
      rw [List.drop_left] at hdel
      refine ⟨t, hdel, hhdr', hhcnt, hpcnt, fun j => ?_⟩
      rw [hbuf]
      split
      · next hj => rw [List.getElem?_append_left hj]
      · rfl

/-- A packet delivered by the deserializer is in the receive unit's registers: nothing else is written. -/
theorem desRun_delivered_frame {bs rest : List Byte} {eos : Bool} {s t : State}
    (h : desRun bs eos s = .delivered t rest) :
    ∃ H hc pc buf, t = { s with rxhdr := H, rxhcnt := hc, rxpcnt := pc, rxbuf := buf } := by
  induction bs generalizing s with
  | nil => cases eos <;> cases h
  | cons b bs ih =>
    cases hd : desByte b s with
    | more s1 =>
      simp only [desRun, hd] at h
      obtain ⟨H, hc, pc, buf, rfl⟩ := ih h
      rcases desByte_more hd with ⟨_, rfl⟩ | ⟨_, _, _, _, rfl⟩ | ⟨_, _, _, rfl⟩ <;> exact ⟨H, hc, pc, buf, rfl⟩
    | complete s1 =>
      simp only [desRun, hd] at h
      cases h
      rcases desByte_complete hd with ⟨_, _, _, rfl⟩ | ⟨_, _, _, rfl⟩ <;> exact ⟨_, _, _, _, rfl⟩
    | raised e s1 => simp only [desRun, hd] at h; cases h
    | fault f => simp only [desRun, hd] at h; cases h

/-! ## The environment beside the deserializer -/

/-- `s` with the environment of `e`, and the pulses, which end at the beginning of a cycle. -/
def State.withEnvOf (s e : State) : State :=
  { s with
    rxIn := e.rxIn
    pins := e.pins
    script := e.script
    tick := e.tick
    epClosePulse := e.epClosePulse
    logPulse := e.logPulse }

/-- The result of the deserializer with the environment of `e`. -/
def DesResult.withEnvOf (e : State) : DesResult → DesResult
  | .more s => .more (s.withEnvOf e)
  | .complete s => .complete (s.withEnvOf e)
  | .raised c s => .raised c (s.withEnvOf e)
  | .fault f => .fault f

/-- Header completion reads nothing of the environment. -/
theorem headerComplete_withEnvOf (e s : State) :
    headerComplete (s.withEnvOf e) = (headerComplete s).withEnvOf e := by
  simp only [headerComplete, apply_ite (DesResult.withEnvOf e)]
  rfl

/-- A header byte is taken without reading the environment. -/
theorem desHeaderByte_withEnvOf (b : Byte) (e s : State) :
    desHeaderByte b (s.withEnvOf e) = (desHeaderByte b s).withEnvOf e := by
  simp only [desHeaderByte, apply_ite (DesResult.withEnvOf e), ← headerComplete_withEnvOf]
  rfl

/-- A payload byte is stored without reading the environment. -/
theorem storePayloadByte_withEnvOf (b : Byte) (e s : State) :
    storePayloadByte b (s.withEnvOf e) = (storePayloadByte b s).map (State.withEnvOf · e) := by
  simp only [storePayloadByte, memWriteByte, apply_ite (Except.map (State.withEnvOf · e))]
  rfl

/-- A payload byte is taken without reading the environment. -/
theorem desPayloadByte_withEnvOf (b : Byte) (e s : State) :
    desPayloadByte b (s.withEnvOf e) = (desPayloadByte b s).withEnvOf e := by
  simp only [desPayloadByte, storePayloadByte_withEnvOf]
  cases storePayloadByte b s with
  | error f => rfl
  | ok s1 =>
    simp only [Except.map, apply_ite (DesResult.withEnvOf e)]
    rfl

/-- The deserializer reads nothing of the environment: what a byte does depends on the byte and the block alone. -/
theorem desByte_withEnvOf (b : Byte) (e s : State) :
    desByte b (s.withEnvOf e) = (desByte b s).withEnvOf e := by
  simp only [desByte, apply_ite (DesResult.withEnvOf e), desHeaderByte_withEnvOf, desPayloadByte_withEnvOf]
  rfl

/-- The machine takes the bytes of a packet the deserializer delivers, one a step, and the step that takes the last
delivers it (R59, R96). -/
theorem run_of_desRun {bs rest : List Byte} {e s t : State} (hrun : desRun bs false s = .delivered t [])
    (hsteady : Steady e) (hready : rxReady s = true) (hin : e.rxIn = bs ++ rest) :
    ∃ v, Sys2Proof.core.run bs.length (s.withEnvOf e) = deliver (t.withEnvOf v) ∧ v.rxIn = rest ∧
      v.script = e.script.drop bs.length := by
  induction bs generalizing s e with
  | nil => cases hrun
  | cons b bs ih =>
    obtain ⟨_, hleft, hstep⟩ := step_takes_byte (s := s.withEnvOf e) (by exact hsteady) hready hin
    generalize he' : takeRx (openCycle (nextCycle (s.withEnvOf e)) (s.withEnvOf e)) = e' at hleft hstep
    have hblock : e' = s.withEnvOf e' := by rw [← he']; rfl
    have hscript : e'.script = e.script.tail := by rw [← he']; rfl
    rw [hblock, desByte_withEnvOf] at hstep
    cases hd : desByte b s with
    | more s1 =>
      simp only [desRun, hd] at hrun
      have hsteady' : Steady e' := fun c hc => hsteady c (List.mem_of_mem_tail (hscript ▸ hc))
      have hready' : rxReady s1 = true := (congrArg FsmState.isReceive (desByte_more_same hd).state).trans hready
      obtain ⟨v, hrun', hrest, hdrop⟩ := ih hrun hsteady' hready' hleft
      rw [hd] at hstep
      refine ⟨v, (run_next bs.length hstep).trans hrun', hrest, ?_⟩
      rw [hdrop, hscript, List.drop_tail]
      rfl
    | complete s1 =>
      simp only [desRun, hd] at hrun
      cases hrun
      rw [hd] at hstep
      refine ⟨e', run_last hstep, hleft, ?_⟩
      rw [hscript, ← List.drop_one]
      rfl
    | raised c s1 => simp only [desRun, hd] at hrun; cases hrun
    | fault f => simp only [desRun, hd] at hrun; cases hrun

/-! ## Delivery -/

/-- The length of a well-formed instruction's packet is legal (R78, R83). -/
theorem len_le_of_wf {i : Instr} (h : i.wf = true) : i.header.len.toNat ≤ 2048 := by
  cases i with
  | data seq a len =>
    rw [Instr.wf, Bool.and_eq_true] at h
    exact (lenLegal_iff len).1 h.1
  | fin seq a len | syn seq a len | ack seq a len | finAck seq a len => exact (lenLegal_iff len).1 h
  | synAck seq a len =>
    simp only [Instr.wf, decide_eq_true_eq] at h
    simp [Instr.header, h]

/-- The delivery of a packet whose header is a well-formed instruction's runs the instruction (R131). -/
theorem deliver_of_rxhdr {i : Instr} {s : State} (hw : i.wf = true) (h : s.rxhdr = encodeHeader i) :
    deliver s = exec i s := by
  have hd : decodeHeader s.rxhdr = .ok i := by
    rw [h, decodeHeader, encodeHeader, Header.ofBits_toBits, decodeFields_header hw]
  simp only [deliver, hd]

end Sys2Proof.Machine

open Sys2Proof Sys2Proof.Machine

/-- Settles O47: the deserializer delivers the packet from its bytes, and the machine's run is the deserializer's. -/
theorem streamedPacketIsExecuted : Obligations.StreamedPacketIsExecuted := by
  intro i payload rest s hw hlen hready hflags hh _ hin hsteady
  obtain ⟨t, hdes, hhdr, hhcnt, hpcnt, hbuf⟩ := desRun_packet [] false hlen (len_le_of_wf hw) hflags hh
  obtain ⟨v, hrun, hrest, hscript⟩ := run_of_desRun hdes hsteady hready (by simpa [encode] using hin)
  obtain ⟨H, hc, pc, buf, rfl⟩ := desRun_delivered_frame hdes
  have hcount : (i.header.bytes ++ (payload ++ [])).length = 12 + payload.length := by simp
  rw [hcount] at hrun hscript
  refine ⟨State.withEnvOf _ v, hrun.trans (deliver_of_rxhdr hw hhdr), hhdr, hrest, hhcnt, hpcnt, fun j hj => ?_,
    fun j hj => ?_, hscript, rfl⟩
  · exact (hbuf j).trans (if_pos hj)
  · exact (hbuf j).trans (if_neg (Nat.not_lt.2 hj))
end

section
/-!
SUPPORT. The decoder on stream bytes and on header words (spec/30_encoding.md R71 to R73, R79, R83): it reads twelve
bytes, and answers an instruction exactly when they are a well-formed instruction's own.
-/

namespace Sys2Proof

/-- What the decoder answers on bytes that begin with a header of an instruction's row. -/
theorem decode_of_header {bs rest : List Byte} {h : Header} {i : Instr} (hread : headerOfBytes bs = some (h, rest))
    (hrow : decodeFields h = .ok i) : decode bs = .ok (i, rest) := by
  simp only [decode, hread, hrow]

/-- The decoder answers an instruction exactly when twelve bytes are there and their header is of the instruction's
row; the bytes after them are left (R79, R83). -/
theorem decode_eq_ok {bs rest : List Byte} {i : Instr} :
    decode bs = .ok (i, rest) ↔ ∃ h, headerOfBytes bs = some (h, rest) ∧ decodeFields h = .ok i := by
  constructor
  · intro hdec
    cases hread : headerOfBytes bs with
    | none =>
      simp only [decode, hread] at hdec
      cases hdec
    | some p =>
      obtain ⟨h, after⟩ := p
      cases hrow : decodeFields h with
      | error e =>
        simp only [decode, hread, hrow] at hdec
        cases hdec
      | ok j =>
        cases (decode_of_header hread hrow).symm.trans hdec
        exact ⟨h, rfl, hrow⟩
  · rintro ⟨h, hread, hrow⟩
    exact decode_of_header hread hrow

/-- The encoding of a well-formed instruction decodes to it, whatever follows (R71 to R73, R83). -/
theorem decode_encode {i : Instr} (rest : List Byte) (hw : i.wf = true) : decode (encode i ++ rest) = .ok (i, rest) :=
  decode_eq_ok.2 ⟨i.header, headerOfBytes_bytes i.header rest, decodeFields_header hw⟩

/-- The header word of a well-formed instruction, as a number, is a table word of that instruction (R71, R83). -/
theorem decodeTableWord_encodeHeader {i : Instr} (hw : i.wf = true) :
    decodeTableWord 96 (encodeHeader i).toNat = some i := by
  have hword : tableHeader 96 (encodeHeader i).toNat = i.header.toBits := by
    rw [tableHeader, Nat.mod_eq_of_lt (encodeHeader i).isLt, BitVec.ofNat_toNat, BitVec.setWidth_eq]
    rfl
  have hbytes : headerBitsBytes i.header.toBits = encode i := Machine.headerBitsBytes_toBits i.header
  simp only [decodeTableWord, hword, hbytes, decode_encode _ hw]

end Sys2Proof

open Sys2Proof

/-- Settles O1: the header is read back from its bytes, and a well-formed instruction from its header. -/
theorem instructionsDecodeFromTheirEncoding : Obligations.InstructionsDecodeFromTheirEncoding := by
  intro i rest hw
  exact decode_encode rest hw

/-- Settles O2: the bytes read are those of the header they spell, and the header decoded is the instruction's. -/
theorem decodedInstructionsAreTheBytesRead : Obligations.DecodedInstructionsAreTheBytesRead := by
  intro bs rest i hdec
  obtain ⟨h, hread, hfields⟩ := decode_eq_ok.1 hdec
  obtain ⟨rfl, hw⟩ := decodeFields_ok hfields
  exact ⟨hw, headerOfBytes_some hread⟩

/-- Settles O3: each of the six words is the header word of its well-formed instruction. -/
theorem opcodeMapWordsDecode : Obligations.OpcodeMapWordsDecode :=
  ⟨decodeTableWord_encodeHeader (i := .syn 100#32 0#32 0#16) rfl,
   decodeTableWord_encodeHeader (i := .ack 101#32 1#32 0#16) rfl,
   decodeTableWord_encodeHeader (i := .data 101#32 1#32 5#16) rfl,
   decodeTableWord_encodeHeader (i := .fin 101#32 0#32 0#16) rfl,
   decodeTableWord_encodeHeader (i := .finAck 106#32 102#32 0#16) rfl,
   decodeTableWord_encodeHeader (i := .synAck 0#32 101#32 0#16) rfl⟩
end

section
/-!
SUPPORT. The Packet Codec as pure functions (R90, R92): ENCODE on a well-formed record and on any other, and DECODE on a
stream that holds a header and on one that does not.
-/

namespace Sys2Proof.Machine

/-! ## ENCODE -/

/-- A record is well-formed when its length is legal and its payload's (R10). -/
theorem wellFormed_iff (p : Packet) :
    p.wellFormed = true ↔ p.len.toNat ≤ 2048 ∧ p.payload.length = p.len.toNat := by
  rw [Packet.wellFormed, Bool.and_eq_true, lenLegal_iff, decide_eq_true_iff]

/-- ENCODE of a well-formed record is its header bytes, then its payload (R90). -/
theorem encodePacket_of_wellFormed {p : Packet} (hw : p.wellFormed = true) :
    encodePacket p = .ok (p.toHeader.bytes ++ p.payload) := by
  obtain ⟨hmax, hlen⟩ := (wellFormed_iff p).1 hw
  have hlegal : lenLegal p.len = true := (lenLegal_iff p.len).2 hmax
  simp [encodePacket, hlegal, hlen]

/-- ENCODE refuses a record that is not well-formed (R90). -/
theorem encodePacket_of_not_wellFormed {p : Packet} (hw : ¬ p.wellFormed = true) :
    encodePacket p = .error .encodingError := by
  unfold encodePacket
  split
  · rfl
  · next hlegal =>
    rw [Bool.not_eq_false, lenLegal_iff] at hlegal
    exact if_pos fun hlen => hw ((wellFormed_iff p).2 ⟨hlegal, hlen⟩)

/-- ENCODE succeeds on well-formed records only, and answers their bytes (R90). -/
theorem encodePacket_eq_ok {p : Packet} {bs : List Byte} :
    encodePacket p = .ok bs ↔ p.wellFormed = true ∧ bs = p.toHeader.bytes ++ p.payload := by
  constructor
  · intro he
    by_cases hw : p.wellFormed = true
    · rw [encodePacket_of_wellFormed hw] at he
      cases he
      exact ⟨hw, rfl⟩
    · rw [encodePacket_of_not_wellFormed hw] at he
      cases he
  · rintro ⟨hw, rfl⟩
    exact encodePacket_of_wellFormed hw

/-! ## DECODE -/

/-- DECODE of fewer bytes than a header's runs out of bytes (R92). -/
theorem decodePacket_short {bs : List Byte} (eos strict : Bool) (h : bs.length < 12) :
    decodePacket bs eos strict = decodeShort eos := by
  simp only [decodePacket, headerOfBytes_none.2 h]

/-- DECODE of a stream that begins with a header: the length first, then the flags if `strict`, then the payload, which
is there or not (R92, R94). -/
theorem decodePacket_header (h : Header) (body : List Byte) (eos strict : Bool) :
    decodePacket (h.bytes ++ body) eos strict =
      if 2048 < h.len.toNat then .error .lengthError
      else if strict = true ∧ definedFlags h.flags = false then .error .invalidFlags
      else if body.length < h.len.toNat then decodeShort eos
      else .ok { h with payload := body.take h.len.toNat } (body.drop h.len.toNat) := by
  have hlegal : lenLegal h.len = false ↔ 2048 < h.len.toNat := by
    rw [← Bool.not_eq_true, lenLegal_iff, Nat.not_le]
  simp only [decodePacket, headerOfBytes_bytes, hlegal, Bool.and_eq_true, Bool.not_eq_true']

/-- Flags that are not refused are defined if `strict` (R92). -/
theorem flagsPass_iff {strict : Bool} {f : Half} :
    ¬ (strict = true ∧ definedFlags f = false) ↔ (strict = true → definedFlags f = true) := by
  rw [not_and, Bool.not_eq_false]

/-- DECODE of a well-formed packet whose flags pass delivers it and leaves what follows (R92, R98). -/
theorem decodePacket_packet {p : Packet} {strict : Bool} (t : List Byte) (eos : Bool) (hw : p.wellFormed = true)
    (hflags : strict = true → definedFlags p.flags = true) :
    decodePacket (p.toHeader.bytes ++ p.payload ++ t) eos strict = .ok p t := by
  obtain ⟨hmax, hlen⟩ := (wellFormed_iff p).1 hw
  rw [List.append_assoc, decodePacket_header, if_neg (Nat.not_lt.2 hmax), if_neg (flagsPass_iff.2 hflags),
    if_neg (by rw [List.length_append]; omega), ← hlen, List.take_left, List.drop_left]

/-- What DECODE answers with a packet: the stream holds a header that passes both checks, and its payload after it
(R92). -/
theorem decodePacket_eq_ok {bs rest : List Byte} {eos strict : Bool} {p : Packet}
    (hd : decodePacket bs eos strict = .ok p rest) :
    p.wellFormed = true ∧ (strict = true → definedFlags p.flags = true) ∧
      bs = p.toHeader.bytes ++ p.payload ++ rest := by
  have hshort : decodeShort eos ≠ .ok p rest := by cases eos <;> exact nofun
  cases hread : headerOfBytes bs with
  | none => exact absurd (decodePacket_short eos strict (headerOfBytes_none.1 hread) ▸ hd) hshort
  | some hb =>
    obtain ⟨h, body⟩ := hb
    obtain rfl := headerOfBytes_some hread
    rw [decodePacket_header] at hd
    split at hd
    · cases hd
    next hmax =>
    split at hd
    · cases hd
    next hflags =>
    split at hd
    · exact absurd hd hshort
    next hthere =>
    cases hd
    refine ⟨(wellFormed_iff _).2 ⟨Nat.not_lt.1 hmax, ?_⟩, flagsPass_iff.1 hflags, ?_⟩
    · exact List.length_take_of_le (Nat.not_lt.1 hthere)
    · rw [List.append_assoc, List.take_append_drop]

end Sys2Proof.Machine

open Sys2Proof Sys2Proof.Machine

/-- Settles O5: ENCODE writes a well-formed packet's header and payload, and DECODE reads both back, or stops at the
flags. -/
theorem codecRoundTrip : Obligations.CodecRoundTrip := by
  intro p t eos
  constructor
  · intro strict hvalid
    rw [Packet.validForRoundTrip, Bool.and_eq_true, Bool.or_eq_true, Bool.not_eq_true'] at hvalid
    obtain ⟨hw, hflags⟩ := hvalid
    refine ⟨_, encodePacket_of_wellFormed hw, decodePacket_packet t eos hw fun hs => ?_⟩
    exact hflags.resolve_left (by simp [hs])
  · intro hw hflags
    obtain ⟨hmax, _⟩ := (wellFormed_iff p).1 hw
    refine ⟨_, encodePacket_of_wellFormed hw, ?_⟩
    rw [List.append_assoc, decodePacket_header, if_neg (Nat.not_lt.2 hmax), if_pos ⟨rfl, hflags⟩]

/-- Settles O8: what DECODE delivers was on the stream, and a well-formed packet has `12 + len` bytes. -/
theorem decodeConsumesExactlyThePacket : Obligations.DecodeConsumesExactlyThePacket := by
  intro bs rest eos strict p hd
  obtain ⟨hw, hflags, rfl⟩ := decodePacket_eq_ok hd
  obtain ⟨_, hlen⟩ := (wellFormed_iff p).1 hw
  refine ⟨hw, hflags, rfl, ?_⟩
  rw [List.length_append, List.length_append, Header.bytes_length, hlen]

/-- Settles O6: 2048 is a legal length and 2049 is not, for ENCODE and for DECODE. -/
theorem codecBoundary : Obligations.CodecBoundary := by
  intro seq ack flags payload t eos
  refine ⟨fun hlen => ?_, fun _ => ?_, fun strict => ?_⟩
  · have hw : Packet.wellFormed ⟨⟨seq, ack, 2048#16, flags⟩, payload⟩ = true := by simp [wellFormed_iff, hlen]
    have hback := decodePacket_packet (strict := false) t eos hw nofun
    refine ⟨⟨_, encodePacket_of_wellFormed hw, ?_⟩, hback⟩
    rw [List.length_append, Header.bytes_length, hlen]
  · refine encodePacket_of_not_wellFormed fun hw => ?_
    obtain ⟨hmax, _⟩ := (wellFormed_iff _).1 hw
    exact absurd hmax (by simp)
  · rw [decodePacket_header, if_pos (by simp)]

/-- Settles O7, from ENCODE on a well-formed record and on any other. -/
theorem encodeFailsExactlyOnLength : Obligations.EncodeFailsExactlyOnLength := by
  intro p
  split
  · next hw => exact encodePacket_of_wellFormed ((wellFormed_iff p).2 hw)
  · next hw => exact encodePacket_of_not_wellFormed (mt (wellFormed_iff p).1 hw)
end

section
/-!
SUPPORT. The deserializer taken alone (R96, R97, R100) on every stream: one that ends in the header or in the payload,
and one that begins with a header. (A whole packet: `desRun_packet`.)
-/

namespace Sys2Proof.Machine

/-- How a DECODE by the DES ends where the bytes on offer run out: TruncatedStreamError if an `Eos` follows, else it
waits for ever (R97). -/
def DesRun.ranOut (eos : Bool) (s : State) : DesRun := if eos then .raised .truncatedStream s [] else .waiting s

/-- Fewer bytes than a header's run out in the header phase (R93, R97). -/
theorem desRun_short {bs : List Byte} (eos : Bool) {s : State} (hh : s.rxhcnt = 0#4) (hlen : bs.length < 12) :
    ∃ t, desRun bs eos s = .ranOut eos t := by
  have hrun := desRun_header bs [] eos s (by simpa [hh] using hlen)
  rw [List.append_nil] at hrun
  exact ⟨_, hrun⟩

/-- Header completion: the length first, then the flags if CFG.STRICT, then the payload phase or, with no payload, the
packet's completion (R94, R186). -/
theorem headerComplete_eq (s : State) :
    headerComplete s =
      if 2048 < rxLen s then .raised .lengthError s
      else if s.cfgStrict = true ∧ definedFlags (rxHeader s).flags = false then .raised .invalidFlags s
      else if rxLen s = 0 then .complete (packetComplete s)
      else .more { s with rxpcnt := 0#12 } := by
  simp only [headerComplete, Bool.and_eq_true, Bool.not_eq_true', Config.maxPayload]

/-- The state with a whole header taken (R93). -/
def headerTaken (h : Header) (s : State) : State := { s with rxhdr := h.toBits, rxhcnt := 12#4 }

/-- RXHDR's fields are then the header's. -/
@[simp] theorem rxHeader_headerTaken (h : Header) (s : State) : rxHeader (headerTaken h s) = h := Header.ofBits_toBits h

/-- RXH.LEN is then the header's length. -/
@[simp] theorem rxLen_headerTaken (h : Header) (s : State) : rxLen (headerTaken h s) = h.len.toNat := by
  rw [rxLen, rxHeader_headerTaken]

/-- The configuration is not the header's. -/
@[simp] theorem headerTaken_cfgStrict (h : Header) (s : State) : (headerTaken h s).cfgStrict = s.cfgStrict := rfl

/-- The deserializer on a stream that begins with a header, from the start of a packet: the header is refused, or is the
whole packet, or the payload is taken next (R93, R94). -/
theorem desRun_bytes (h : Header) (body : List Byte) (eos : Bool) {s : State} (hh : s.rxhcnt = 0#4) :
    desRun (h.bytes ++ body) eos s =
      if 2048 < h.len.toNat then .raised .lengthError (headerTaken h s) body
      else if s.cfgStrict = true ∧ definedFlags h.flags = false then .raised .invalidFlags (headerTaken h s) body
      else if h.len.toNat = 0 then .delivered (packetComplete (headerTaken h s)) body
      else desRun body eos { headerTaken h s with rxpcnt := 0#12 } := by
  obtain ⟨b, s1, hrun, hbyte⟩ := desRun_headerBytes h body eos hh
  have hdone := hbyte.trans (headerComplete_eq (headerTaken h s))
  rw [rxLen_headerTaken, rxHeader_headerTaken, headerTaken_cfgStrict] at hdone
  rw [hrun]
  by_cases hlong : 2048 < h.len.toNat
  · rw [if_pos hlong] at hdone ⊢
    simp only [desRun, hdone]
  rw [if_neg hlong] at hdone ⊢
  by_cases hbad : s.cfgStrict = true ∧ definedFlags h.flags = false
  · rw [if_pos hbad] at hdone ⊢
    simp only [desRun, hdone]
  rw [if_neg hbad] at hdone ⊢
  by_cases hzero : h.len.toNat = 0
  · rw [if_pos hzero] at hdone ⊢
    simp only [desRun, hdone]
  · rw [if_neg hzero] at hdone ⊢
    simp only [desRun, hdone, headerTaken_cfgStrict]

/-- A payload that is not all there runs out in the payload phase (R95, R97). -/
theorem desRun_payloadShort {h : Header} {body : List Byte} (eos : Bool) {s : State} (hh : s.rxhcnt = 0#4)
    (hmax : h.len.toNat ≤ 2048) (hflags : s.cfgStrict = true → definedFlags h.flags = true)
    (hshort : body.length < h.len.toNat) : ∃ t, desRun (h.bytes ++ body) eos s = .ranOut eos t := by
  have hlen : rxLen { headerTaken h s with rxpcnt := 0#12 } = h.len.toNat := rxLen_headerTaken h s
  rw [desRun_bytes h body eos hh, if_neg (Nat.not_lt.2 hmax), if_neg (flagsPass_iff.2 hflags), if_neg (by omega)]
  rcases desRun_payload body eos { headerTaken h s with rxpcnt := 0#12 } rfl
    (by rw [hlen]; exact Nat.zero_lt_of_lt hshort) (by omega) with ⟨_, hout⟩ | ⟨hthere, _⟩
  · exact hout
  · rw [hlen] at hthere
    exact absurd hshort (Nat.not_lt.2 hthere)

/-- The packet in the receive unit, read off RXHDR and the cells of RXBUF (R96). -/
theorem rxPacket_eq {p : Packet} {s : State} (hhdr : s.rxhdr = p.toHeader.toBits)
    (hlen : p.payload.length = p.len.toNat) (hbuf : ∀ j, j < p.payload.length → s.rxbuf.read? j = p.payload[j]?) :
    rxPacket s = p := by
  have hh : rxHeader s = p.toHeader := by rw [rxHeader, hhdr, Header.ofBits_toBits]
  have hn : rxLen s = p.payload.length := by rw [rxLen, hh, hlen]
  have hcells : (List.range p.payload.length).map (fun i => cellByte .rxbuf i s) = p.payload := by
    refine List.ext_getElem (by simp) fun j _ hj => ?_
    have hcell : (s.mem .rxbuf).read? j = some p.payload[j] := (hbuf j hj).trans (List.getElem?_eq_getElem hj)
    simpa using cellByte_of_read? hcell
  rw [rxPacket, hh, hn, hcells]

end Sys2Proof.Machine

open Sys2Proof Sys2Proof.Machine

/-- Settles O11, along DECODE's own cases: no header, a header refused, a payload not all there, a whole packet. -/
theorem deserializerAgreesWithDecode : Obligations.DeserializerAgreesWithDecode := by
  intro bs eos s hh _
  cases hread : headerOfBytes bs with
  | none =>
    have hlen := headerOfBytes_none.1 hread
    obtain ⟨t, hrun⟩ := desRun_short eos hh hlen
    rw [decodePacket_short eos _ hlen]
    cases eos with
    | true => exact ⟨t, [], hrun⟩
    | false => exact ⟨t, hrun⟩
  | some hb =>
    obtain ⟨h, body⟩ := hb
    obtain rfl := headerOfBytes_some hread
    rw [decodePacket_header]
    by_cases hlong : 2048 < h.len.toNat
    · rw [if_pos hlong]
      exact ⟨_, body, by rw [desRun_bytes h body eos hh, if_pos hlong]⟩
    have hmax := Nat.not_lt.1 hlong
    rw [if_neg hlong]
    by_cases hbad : s.cfgStrict = true ∧ definedFlags h.flags = false
    · rw [if_pos hbad]
      exact ⟨_, body, by rw [desRun_bytes h body eos hh, if_neg hlong, if_pos hbad]⟩
    have hflags := flagsPass_iff.1 hbad
    rw [if_neg hbad]
    by_cases hshort : body.length < h.len.toNat
    · rw [if_pos hshort]
      obtain ⟨t, hrun⟩ := desRun_payloadShort eos hh hmax hflags hshort
      cases eos with
      | true => exact ⟨t, [], hrun⟩
      | false => exact ⟨t, hrun⟩
    rw [if_neg hshort]
    have hlen : (body.take h.len.toNat).length = h.len.toNat := List.length_take_of_le (Nat.not_lt.1 hshort)
    obtain ⟨t, hrun, hhdr, hhcnt, hpcnt, hbuf⟩ :=
      desRun_packet (body.drop h.len.toNat) eos hlen hmax hflags hh
    rw [List.take_append_drop] at hrun
    refine ⟨t, hrun, rxPacket_eq hhdr hlen fun j hj => (hbuf j).trans (if_pos hj), hhcnt, hpcnt, ?_⟩
    simp only [List.length_append, Header.bytes_length, List.length_drop]
    omega
end

section
/-!
SUPPORT. The serializer taken alone (R30, R91, R100): the request is accepted for well-formed packets only, and the
acceptances that follow send the packet's bytes.
-/

namespace Sys2Proof.Machine

/-- The state in which the SER unit's request for a packet is made (R30, R91). -/
def serLoaded (p : Packet) (s : State) : State :=
  { s with
    txhdr := p.toHeader.toBits
    txplen := BitVec.ofNat 16 p.payload.length
    txbuf := cellsFrom 0 (p.payload.take Config.maxPayload)
    txcnt := 0#12 }

/-- The payload of a well-formed packet fits in TXBUF. -/
theorem serLoaded_txbuf {p : Packet} (hw : p.wellFormed = true) (s : State) :
    (serLoaded p s).txbuf = cellsFrom 0 p.payload := by
  obtain ⟨hmax, hlen⟩ := (wellFormed_iff p).1 hw
  exact congrArg (cellsFrom 0) (List.take_of_length_le (by rw [hlen]; exact hmax))

/-- The check of the request passes for well-formed packets only, if TXPLEN can hold the payload's length (R91). -/
theorem serCheck_serLoaded (p : Packet) (s : State) :
    (p.payload.length < 65536 ∧ serCheck (serLoaded p s) = true) ↔ p.wellFormed = true := by
  have hhdr : txHeader (serLoaded p s) = p.toHeader := Header.ofBits_toBits _
  rw [serCheck, hhdr, Bool.and_eq_true, decide_eq_true_iff, lenLegal_iff, wellFormed_iff]
  show _ ∧ _ ∧ p.len = BitVec.ofNat 16 p.payload.length ↔ _
  rw [← BitVec.toNat_inj, BitVec.toNat_ofNat]
  omega

/-- The SER unit's request (R91, R181): accepted for a well-formed packet, else EncodingError. -/
theorem serUnitRequest_eq (p : Packet) (s : State) :
    serUnitRequest p s = if p.wellFormed = true then .ok (serLoaded p s) else .error .encodingError := by
  have hreq : serUnitRequest p s =
      if p.payload.length < 65536 ∧ serCheck (serLoaded p s) = true then .ok (serLoaded p s)
      else .error .encodingError := rfl
  simp only [hreq, serCheck_serLoaded]

/-- The acceptance of the last byte of a packet completes it (R91). -/
theorem serAccept_last {p : Packet} {s : State} (hw : p.wellFormed = true) (hhdr : s.txhdr = p.toHeader.toBits)
    (hbuf : s.txbuf = cellsFrom 0 p.payload) (hcnt : s.txcnt.toNat + 1 = 12 + p.len.toNat) :
    ∃ b, (p.toHeader.bytes ++ p.payload)[s.txcnt.toNat]? = some b ∧
      serAccept s = .sent { s with txOut := s.txOut ++ [b], txcnt := 0#12 } := by
  obtain ⟨hmax, hlen⟩ := (wellFormed_iff p).1 hw
  have htx : txLen s = p.len.toNat := by rw [txLen, txHeader, hhdr, Header.ofBits_toBits]
  obtain ⟨b, hb, hbyte⟩ := txByte_of_packet p hlen hmax s hhdr hbuf (by omega)
  rcases serAccept_cases s with ⟨b', hb', hs, _⟩ | ⟨_, _, _, hne⟩ | ⟨f, hf, _⟩
  · rw [hb] at hb'
    cases hb'
    exact ⟨b, hbyte, hs⟩
  · exact absurd (htx ▸ hcnt) hne
  · rw [hb] at hf
    cases hf

section
variable {p : Packet} (hw : p.wellFormed = true) (s : State)
include hw

/-- After `n` acceptances, fewer than the packet's bytes, the first `n` bytes have been sent (R91). -/
theorem serRun_serLoaded_take {n : Nat} (hn : n < 12 + p.len.toNat) :
    serRun (List.replicate n .accepted) (serLoaded p s) = .more
      { serLoaded p s with
        txcnt := BitVec.ofNat 12 n
        txOut := s.txOut ++ (p.toHeader.bytes ++ p.payload).take n } := by
  obtain ⟨hmax, hlen⟩ := (wellFormed_iff p).1 hw
  have hrun := serRun_take p hlen hmax n (serLoaded p s) rfl (serLoaded_txbuf hw s) (by simpa [serLoaded] using hn)
  simpa [serLoaded] using hrun

/-- An error of the TX stream after `n` acceptances, fewer than the packet's bytes, ends the operation with the `n`
bytes sent (R91). -/
theorem serRun_serLoaded_txErr {n : Nat} (hn : n < 12 + p.len.toNat) :
    serRun (List.replicate n .accepted ++ [.txErr]) (serLoaded p s) = .raised .truncatedStream
      { serLoaded p s with
        txcnt := BitVec.ofNat 12 n
        txOut := s.txOut ++ (p.toHeader.bytes ++ p.payload).take n } :=
  serRun_append (serRun_serLoaded_take hw s hn)

/-- As many acceptances as the packet has bytes send the packet, and TXCNT is 0 again (R91). -/
theorem serRun_serLoaded_all :
    serRun (List.replicate (12 + p.len.toNat) .accepted) (serLoaded p s) = .sent
      { serLoaded p s with
        txcnt := 0#12
        txOut := s.txOut ++ (p.toHeader.bytes ++ p.payload) } := by
  obtain ⟨hmax, hlen⟩ := (wellFormed_iff p).1 hw
  have hcount : (BitVec.ofNat 12 (11 + p.len.toNat)).toNat = 11 + p.len.toNat := by
    rw [BitVec.toNat_ofNat]
    omega
  obtain ⟨b, hbyte, hlast⟩ := serAccept_last (s := { serLoaded p s with
      txcnt := BitVec.ofNat 12 (11 + p.len.toNat)
      txOut := s.txOut ++ (p.toHeader.bytes ++ p.payload).take (11 + p.len.toNat) }) hw rfl (serLoaded_txbuf hw s)
    (by rw [hcount]; omega)
  have hall : (p.toHeader.bytes ++ p.payload).take (11 + p.len.toNat) ++ [b] = p.toHeader.bytes ++ p.payload := by
    rw [hcount] at hbyte
    rw [← Option.toList_some, ← hbyte, ← List.take_add_one, List.take_of_length_le]
    rw [List.length_append, Header.bytes_length, hlen]
    omega
  rw [show 12 + p.len.toNat = (11 + p.len.toNat) + 1 by omega, List.replicate_succ',
    serRun_append (serRun_serLoaded_take hw s (by omega)), serRun, serEvent_accepted, hlast]
  simp only [List.append_assoc, hall]

end

end Sys2Proof.Machine

open Sys2Proof Sys2Proof.Machine

/-- Settles O12: ENCODE and the request accept the same packets, and the acceptances send a packet's bytes in order. -/
theorem serializerAgreesWithEncode : Obligations.SerializerAgreesWithEncode := by
  intro p s
  constructor
  · intro bs henc
    obtain ⟨hw, rfl⟩ := encodePacket_eq_ok.1 henc
    obtain ⟨_, hlen⟩ := (wellFormed_iff p).1 hw
    have hcount : (p.toHeader.bytes ++ p.payload).length = 12 + p.len.toNat := by
      rw [List.length_append, Header.bytes_length, hlen]
    refine ⟨serLoaded p s, by rw [serUnitRequest_eq, if_pos hw], rfl, fun n hn => ?_, ?_⟩
    · rw [hcount] at hn
      exact ⟨_, serRun_serLoaded_take hw s hn, rfl, serRun_serLoaded_txErr hw s hn⟩
    · rw [hcount]
      exact ⟨_, serRun_serLoaded_all hw s, rfl, rfl⟩
  · intro henc
    have hw : ¬ p.wellFormed = true := fun hw => by
      rw [encodePacket_of_wellFormed hw] at henc
      cases henc
    rw [serUnitRequest_eq, if_neg hw]
end

section
/-!
SUPPORT. A step by the event of its cycle (R6, R54): the deserializer on the byte taken, an error of the receive side,
and a delivered packet.
-/

namespace Sys2Proof.Machine

/-- A step whose event is a byte is what the deserializer makes of it (R93 to R96). -/
theorem step_of_byte {s s1 : State} {b : Byte} (hb : beginCycle s = .ok s1) (hev : eventOf s1 = some (.byte b)) :
    step s = afterByte (desByte b (takeRx s1)) := by
  rw [step_of_begin hb, runEvent, hev]

/-- A step whose event is the end of the stream (R97). -/
theorem step_of_eos {s s1 : State} (hb : beginCycle s = .ok s1) (hev : eventOf s1 = some .eos) :
    step s = receiveError .truncatedStream s1 := by
  rw [step_of_begin hb, runEvent, hev]

/-- An error of the deserializer in a receive state is FAIL with the kind expected there (R94, R97, R187). -/
theorem receiveError_of_expects {c : ErrCode} {e : Kind} {s : State} (he : s.state.expects = some e) :
    receiveError c s = .next (fail c e (desErrorAct c) s) := by
  simp only [receiveError, he]

/-- The delivery of a packet whose header decodes runs the instruction (R131). -/
theorem deliver_of_decode {i : Instr} {s : State} (hd : decodeHeader s.rxhdr = .ok i) : deliver s = exec i s := by
  simp only [deliver, hd]

/-- SYN in LISTENING is accepted (R133). -/
theorem exec_syn_of_listening {seq a : Word} {len : Half} {s : State} (hst : s.state = .listening) :
    exec (.syn seq a len) s =
      .next (acceptSyn seq (logReceived ⟨seq, a, len, Config.flagsSyn⟩ s)) := by
  have he : s.state.expects = some .syn := by rw [hst]; rfl
  have hk : classify ⟨seq, a, len, Config.flagsSyn⟩ = .syn := classify_header (.syn seq a len)
  simp only [exec, execSyn, receive, he, hk, if_true]

end Sys2Proof.Machine

open Sys2Proof Sys2Proof.Machine

/-- Settles O32: the SYN is accepted, and the request for the SYN_ACK, whose length is 0, is refused. -/
theorem sendRequestIsCheckedFirst : Obligations.SendRequestIsCheckedFirst := by
  intro seq ackNum len s hst hplen
  refine ⟨_, exec_syn_of_listening hst, ?_⟩
  rw [acceptSyn, enterSend_refused (by exact hplen.symm)]
  exact ⟨rfl, rfl, rfl⟩

/-- Settles O34: the byte completes the packet, and its delivery runs the instruction the header decodes to. -/
theorem stepRunsTheReceivedPacket : Obligations.StepRunsTheReceivedPacket := by
  intro s s1 s2 b i hb hev hdes hdec
  obtain ⟨_, hw⟩ := decodeFields_ok hdec
  refine ⟨?_, hw⟩
  rw [step_of_byte hb hev, hdes]
  exact deliver_of_decode hdec

/-- Settles O38, from the deserializer on a header byte before the twelfth. -/
theorem stepShiftsAHeaderByte : Obligations.StepShiftsAHeaderByte := by
  intro s s1 b hb hev hcnt
  rw [step_of_byte hb hev, desByte_header (by exact hcnt)]
  rfl

/-- Settles O39: the step and header completion make the same checks in the same order. -/
theorem stepChecksTheCompletedHeader : Obligations.StepChecksTheCompletedHeader := by
  intro s s1 b e hb hev hcnt he H h t
  have htaken : afterHeaderByte b (takeRx s1) = t := by
    simp only [afterHeaderByte, takeRx_rxhcnt, hcnt]
    rfl
  have hdes : desByte b (takeRx s1) =
      if 2048 < h.len.toNat then .raised .lengthError t
      else if s1.cfgStrict = true ∧ definedFlags h.flags = false then .raised .invalidFlags t
      else if h.len.toNat = 0 then .complete (packetComplete t)
      else .more { t with rxpcnt := 0#12 } := by
    rw [desByte_headerLast (by exact hcnt), htaken]
    exact headerComplete_eq t
  rw [step_of_byte hb hev]
  split
  · next hlong =>
    rw [hdes, if_pos hlong]
    exact receiveError_of_expects he
  next hlong =>
  rw [if_neg hlong] at hdes
  split
  · next hbad =>
    rw [hdes, if_pos hbad]
    exact receiveError_of_expects he
  next hpass =>
  rw [if_neg hpass] at hdes
  split
  · next hpos =>
    rw [hdes, if_neg (Nat.ne_of_gt hpos)]
    rfl
  · next hzero => exact hdes.trans (if_pos (Nat.eq_zero_of_not_pos hzero))

/-- Settles O40, from the deserializer on a payload byte and the law of a cell after a write. -/
theorem stepStoresAPayloadByte : Obligations.StepStoresAPayloadByte := by
  intro s s1 b hb hev hcnt hmore hmax
  refine ⟨s1.rxbuf.write s1.rxpcnt.toNat b, ?_, Memory.read?_write_same _ _ _, fun j hj =>
    Memory.read?_write_other _ _ hj⟩
  have hlen : rxLen (takeRx s1) = rxLen s1 := rfl
  rw [step_of_byte hb hev, desByte_payload (by exact hcnt) (by rw [hlen, takeRx_rxpcnt]; omega), takeRx_rxpcnt, hlen,
    if_pos (by omega), if_neg (by omega)]
  rfl

/-- Settles O41: in a receive state the end of the stream is FAIL. -/
theorem stepEndOfStreamIsTruncated : Obligations.StepEndOfStreamIsTruncated := by
  intro s s1 e hb hev he
  rw [step_of_eos hb hev, receiveError_of_expects he]
  rfl
end

section
/-!
SUPPORT. The construction helper MK_DATA (R114), and the predicates beside CLASSIFY (R116 to R122): each predicate by
its flags value, and the predicate of a packet's kind as the only one true of it.
-/

namespace Sys2Proof.Machine

/-! ## MK_DATA (R114) -/

/-- A payload of more bytes than `payload_length` can say is refused (R114, D25). -/
theorem mkData_long (s a : Word) {p : List Byte} (hp : 65535 < p.length) : mkData s a p = .error .encodingError :=
  if_pos hp

/-- Any other payload gives a record (R114). -/
theorem mkData_short (s a : Word) {p : List Byte} (hp : p.length ≤ 65535) :
    mkData s a p = .ok ⟨⟨s, a, BitVec.ofNat 16 p.length, Config.flagsData⟩, p⟩ :=
  if_neg (Nat.not_lt.2 hp)

/-- ENCODE refuses a record whose `len` is over the limit (R90). -/
theorem encodePacket_of_len_over {p : Packet} (hp : 2048 < p.len.toNat) : encodePacket p = .error .encodingError :=
  encodePacket_of_not_wellFormed fun hw => Nat.not_le.2 hp ((wellFormed_iff p).1 hw).1

/-! ## The predicates by the flags value (R116 to R120, R92) -/

@[simp] theorem isSyn_iff (h : Header) : isSyn h = true ↔ h.flags = 0x0002#16 := decide_eq_true_iff

@[simp] theorem isAck_iff (h : Header) : isAck h = true ↔ h.flags = 0x0010#16 := decide_eq_true_iff

@[simp] theorem isFin_iff (h : Header) : isFin h = true ↔ h.flags = 0x0001#16 := decide_eq_true_iff

@[simp] theorem isFinAck_iff (h : Header) : isFinAck h = true ↔ h.flags = 0x0011#16 := decide_eq_true_iff

@[simp] theorem isData_iff (h : Header) : isData h = true ↔ h.flags = 0x0000#16 ∧ 0 < h.len.toNat := by
  rw [isData, Bool.and_eq_true, decide_eq_true_iff, decide_eq_true_iff]

theorem definedFlags_iff (f : Half) :
    definedFlags f = true ↔
      f = 0x0000#16 ∨ f = 0x0001#16 ∨ f = 0x0002#16 ∨ f = 0x0010#16 ∨ f = 0x0011#16 := by
  simp only [definedFlags, Bool.or_eq_true, decide_eq_true_iff, or_assoc]

/-! ## CLASSIFY and the predicates (R121, R122) -/

/-- The predicate that CLASSIFY tests for a kind; SYN_ACK, NONE and UNKNOWN have none (R121). -/
def predicateOf (h : Header) : Kind → Bool
  | .syn => isSyn h
  | .ack => isAck h
  | .fin => isFin h
  | .data => isData h
  | .finAck => isFinAck h
  | .synAck | .none | .unknown => false

/-- The kinds that have a predicate, in the order of R116 to R120. -/
def predicateKinds : List Kind := [.syn, .ack, .fin, .data, .finAck]

/-- A packet that has a kind satisfies that kind's predicate (R121). -/
theorem predicateOf_classify {h : Header} (hk : classify h ≠ .unknown) : predicateOf h (classify h) = true := by
  unfold classify at hk ⊢
  repeat' split
  case isFalse.isFalse.isFalse.isFalse.isFalse => simp_all
  all_goals assumption

/-- No other predicate is tested before a true one succeeds: the flags values differ (R122). -/
theorem classify_of_predicateOf {h : Header} {k : Kind} (hp : predicateOf h k = true) : classify h = k := by
  cases k with
  | syn => exact if_pos hp
  | ack | fin | finAck | data => simp_all [predicateOf, classify]
  | synAck | none | unknown => cases hp

/-- CLASSIFY is the kind of the true predicate (R121, R122). -/
theorem predicateOf_eq_true_iff {h : Header} {k : Kind} :
    predicateOf h k = true ↔ classify h = k ∧ k ≠ .unknown := by
  constructor
  · intro hp
    refine ⟨classify_of_predicateOf hp, ?_⟩
    rintro rfl
    cases hp
  · rintro ⟨rfl, hk⟩
    exact predicateOf_classify hk

/-- As many predicates are true of a packet as its kind occurs among the kinds that have one. -/
theorem count_predicates (h : Header) :
    [isSyn h, isAck h, isFin h, isData h, isFinAck h].count true = predicateKinds.count (classify h) := by
  have hmap : [isSyn h, isAck h, isFin h, isData h, isFinAck h] = predicateKinds.map (predicateOf h) := rfl
  rw [hmap, List.count, List.countP_map, List.count]
  refine List.countP_congr fun k hk => ?_
  have hne : k ≠ .unknown := by
    rintro rfl
    exact absurd hk (by decide)
  simp [predicateOf_eq_true_iff, hne, eq_comm (a := k)]

/-- No two of the five predicates are true of one packet (R122). -/
theorem count_predicates_le_one (h : Header) : [isSyn h, isAck h, isFin h, isData h, isFinAck h].count true ≤ 1 := by
  rw [count_predicates]
  cases classify h <;> decide

/-- Exactly one is true as soon as one is (R122). -/
theorem count_predicates_eq_one_iff (h : Header) :
    [isSyn h, isAck h, isFin h, isData h, isFinAck h].count true = 1 ↔
      true ∈ [isSyn h, isAck h, isFin h, isData h, isFinAck h] := by
  have hle := count_predicates_le_one h
  rw [← List.count_pos_iff]
  omega

/-- CLASSIFY by the flags value and the length (R121). -/
theorem classify_eq (h : Header) :
    classify h =
      (if h.flags = 0x0002#16 then .syn
      else if h.flags = 0x0010#16 then .ack
      else if h.flags = 0x0001#16 then .fin
      else if h.flags = 0x0011#16 then .finAck
      else if h.flags = 0x0000#16 ∧ 0 < h.len.toNat then .data
      else .unknown) := by
  simp only [classify, isSyn_iff, isAck_iff, isFin_iff, isFinAck_iff, isData_iff]

end Sys2Proof.Machine

open Sys2Proof Sys2Proof.Machine

/-- Settles O9: MK_DATA up to 65535 bytes, where the 16-bit length is the payload's, and above. -/
theorem helpersMakeTheirRecords : Obligations.HelpersMakeTheirRecords := by
  intro s a
  refine ⟨rfl, rfl, rfl, rfl, rfl, fun p => ⟨fun hp => ?_, mkData_long s a⟩⟩
  have hlen : (BitVec.ofNat 16 p.length).toNat = p.length := by
    rw [BitVec.toNat_ofNat]
    omega
  exact ⟨_, mkData_short s a hp, rfl, rfl, hlen, rfl, rfl, fun hlong =>
    encodePacket_of_len_over (Nat.lt_of_lt_of_eq hlong hlen.symm)⟩

/-- Settles O10: the count of true predicates is that of the packet's kind among five different ones. -/
theorem classificationIsExclusive : Obligations.ClassificationIsExclusive := by
  intro h
  refine ⟨count_predicates_le_one h, (count_predicates_eq_one_iff h).trans ?_, isSyn_iff h, isAck_iff h, isFin_iff h,
    isFinAck_iff h, isData_iff h, classify_eq h, definedFlags_iff h.flags⟩
  simp only [List.mem_cons, List.not_mem_nil, or_false, eq_comm (a := true), isSyn_iff, isAck_iff, isFin_iff,
    isData_iff, isFinAck_iff]
  exact iff_of_eq (by ac_rfl)
end

section
/-!
SUPPORT. The instructions by the state they meet (spec/42_fsm.md R130 to R138): a delivered packet of the kind expected
is accepted, one of another kind is rejected, and a state that expects nothing takes none.
-/

namespace Sys2Proof.Machine

/-! ## Receive dispatch (R131) -/

/-- The rejection of a packet is UnexpectedPacketKindError with the packet's own kind (R183). -/
theorem rejectAs_eq (e : Kind) (h : Header) (s : State) : rejectAs e h s = kindError e (classify h) h s := by
  simp only [rejectAs, fail, emitEpClose, logReceived, emitLog, kindError, List.append_assoc, List.cons_append,
    List.nil_append]

/-- A packet of the kind expected is logged and accepted. -/
theorem receive_expected {h : Header} {act : State → State} {s : State} (he : s.state.expects = some (classify h)) :
    receive h act s = .next (act (logReceived h s)) := by
  simp only [receive, he, if_true]

/-- A packet of another kind is rejected. -/
theorem receive_other {h : Header} {act : State → State} {s : State} {e : Kind} (he : s.state.expects = some e)
    (hk : classify h ≠ e) : receive h act s = .next (kindError e (classify h) h s) := by
  simp only [receive, he, if_neg hk, rejectAs_eq]

/-- A packet of a kind that no receive state expects is rejected (R137, R142). -/
theorem receiveUnexpected_of_expects {h : Header} {s : State} {e : Kind} (he : s.state.expects = some e) :
    receiveUnexpected h s = .next (kindError e (classify h) h s) := by
  simp only [receiveUnexpected, he, rejectAs_eq]

/-- No receive state expects a FIN or a packet of unknown kind (R130). -/
theorem expects_fin_or_unknown {st : FsmState} {e : Kind} (he : st.expects = some e) : e ≠ .fin ∧ e ≠ .unknown := by
  constructor <;> rintro rfl <;> cases st <;> cases he

/-- A state that expects a kind is not the state that sends one. -/
theorem not_isSend_of_expects {st : FsmState} {e : Kind} (he : st.expects = some e) : st.isSend ≠ true := fun hs => by
  rw [expects_of_isSend hs] at he
  cases he

/-- UnexpectedPacketKindError, for every instruction delivered where another kind is expected; flags that are not defined
get so far only if CFG.STRICT is 0 (R142, R183). -/
theorem exec_of_unexpected {i : Instr} {s : State} {e : Kind} (he : s.state.expects = some e)
    (hk : classify i.header ≠ e) (hflags : definedFlags i.header.flags = false → s.cfgStrict = false) :
    exec i s = .next (kindError e (classify i.header) i.header s) := by
  have hsend := not_isSend_of_expects he
  cases i with
  | data seq a len =>
    have hk' : classify ⟨seq, a, len, Config.flagsData⟩ ≠ e := hk
    simp only [exec, execData, he, if_neg hk', rejectAs_eq]
    rfl
  | syn seq a len | ack seq a len | finAck seq a len => exact receive_other he hk
  | fin seq a len =>
    have hst : s.state ≠ .dataReceived := fun hst => hsend (by rw [hst]; rfl)
    exact (if_neg hst).trans (receiveUnexpected_of_expects he)
  | synAck seq a len =>
    have hst : s.state ≠ .synReceived := fun hst => hsend (by rw [hst]; rfl)
    have hstrict : ¬ s.cfgStrict = true := by rw [hflags rfl]; exact Bool.false_ne_true
    exact (if_neg hst).trans ((if_neg hstrict).trans (receiveUnexpected_of_expects he))

/-- Where no kind is expected, a packet that the state is not sending is not taken (R130; log entry 8). -/
theorem exec_of_expects_none {i : Instr} {s : State} (he : s.state.expects = none)
    (hsyn : s.state = .synReceived → ∀ a b c, i ≠ .synAck a b c)
    (hfin : s.state = .dataReceived → ∀ a b c, i ≠ .fin a b c) : exec i s = .next s := by
  have hunexpected (h : Header) : receiveUnexpected h s = .next s := by simp only [receiveUnexpected, he]
  have herror (c : ErrCode) : receiveError c s = .next s := by simp only [receiveError, he]
  cases i with
  | data seq a len => simp only [exec, execData, he]
  | syn seq a len => simp only [exec, execSyn, receive, he]
  | ack seq a len => simp only [exec, execAck, receive, he]
  | finAck seq a len => simp only [exec, execFinAck, receive, he]
  | fin seq a len => exact (if_neg fun hst => hfin hst seq a len rfl).trans (hunexpected _)
  | synAck seq a len =>
    refine (if_neg fun hst => hsyn hst seq a len rfl).trans ?_
    rw [receiveSynAck, herror, hunexpected, ite_self]

/-! ## The acceptances (R133, R135, R136, R138) -/

/-- The acceptance of a SYN loads the SYN_ACK, TXPLEN being 0 (R133, R132). -/
theorem acceptSyn_eq {seq : Word} {s : State} (hp : s.txplen = 0#16) :
    acceptSyn seq s =
      { s with
        irs := seq
        pnx := plusOne seq
        txhdr := (mkSynAck s.cfgIss (plusOne seq)).toHeader.toBits
        txcnt := 0#12
        state := .synReceived } :=
  enterSend_ok rfl hp

/-- The acceptance of a DATA packet that fits records it and loads the FIN, TXPLEN being 0 (R136, R132). -/
theorem acceptData_eq {len : Half} {s : State} (hlen : len.toNat ≤ 2048) (hp : s.txplen = 0#16) :
    acceptData len s = .ok
      { s with
        databuf := Memory.copyLow len.toNat s.rxbuf s.databuf
        dataLen := len
        txhdr := (mkFin s.pnx 0#32).toHeader.toBits
        txcnt := 0#12
        state := .dataReceived } := by
  have hcopy : copyPayload len.toNat s = .ok { s with databuf := Memory.copyLow len.toNat s.rxbuf s.databuf } :=
    if_pos hlen
  simp only [acceptData, hcopy]
  exact congrArg Except.ok (enterSend_ok rfl hp)

/-- ACK in SYN_ACK_SENT is accepted (R135). -/
theorem exec_ack_of_synAckSent {seq a : Word} {len : Half} {s : State} (hst : s.state = .synAckSent) :
    exec (.ack seq a len) s = .next (acceptAck a (logReceived ⟨seq, a, len, Config.flagsAck⟩ s)) :=
  receive_expected (by rw [hst]; rfl)

/-- FIN_ACK in FIN_SENT is accepted (R138). -/
theorem exec_finAck_of_finSent {seq a : Word} {len : Half} {s : State} (hst : s.state = .finSent) :
    exec (.finAck seq a len) s = .next (acceptFinAck (logReceived ⟨seq, a, len, Config.flagsFinAck⟩ s)) :=
  receive_expected (by rw [hst]; rfl)

/-- DATA with a payload in ESTABLISHED is of the kind expected (R136). -/
theorem exec_data_of_established {seq a : Word} {len : Half} {s t : State} (hst : s.state = .established)
    (hpos : 0 < len.toNat) (ha : acceptData len (logReceived ⟨seq, a, len, Config.flagsData⟩ s) = .ok t) :
    exec (.data seq a len) s = .next t := by
  have hexp : s.state.expects = some .data := by rw [hst]; rfl
  have hkind : classify ⟨seq, a, len, Config.flagsData⟩ = .data :=
    (classify_header (.data seq a len)).trans (if_pos hpos)
  simp only [exec, execData, hexp, hkind, if_true, ha]

/-! ## A byte accepted (R132) -/

/-- A send step with a byte of TXHDR accepted: the byte is sent, and after the last one the packet is logged and STATE
moves on (R91, R132). -/
theorem sendStep_accepted {k : Kind} {nxt : FsmState} {s : State} (hev : txEvent s = some .accepted)
    (hcnt : s.txcnt.toNat < 12) :
    sendStep k nxt s = .next
      (if s.txcnt.toNat + 1 = 12 + txLen s then
        sendComplete k nxt { s with txOut := s.txOut ++ [headerByte s.txhdr s.txcnt.toNat], txcnt := 0#12 }
      else { s with txOut := s.txOut ++ [headerByte s.txhdr s.txcnt.toNat], txcnt := s.txcnt + 1#12 }) := by
  simp only [sendStep, hev, serEvent_accepted, serAccept_header hcnt]
  by_cases hlast : s.txcnt.toNat + 1 = 12 + txLen s
  · simp only [if_pos hlast]
  · simp only [if_neg hlast]

/-- The ports show an acceptance (R55). -/
theorem txEvent_accepted {s : State} (herr : s.pins.txErr = false) (hready : s.pins.txReady = true) :
    txEvent s = some .accepted := by
  simp only [txEvent, herr, hready, Bool.false_eq_true, if_false, if_true]

end Sys2Proof.Machine

open Sys2Proof Sys2Proof.Machine

/-- Settles O22: the copy of R57 is the DATABUF asked for, cell by cell; any other delivery is a rejection, with the kind
that CLASSIFY gives for the length. -/
theorem dataIsAccepted : Obligations.DataIsAccepted := by
  intro seq ackNum len s
  have hkind := classify_header (.data seq ackNum len)
  refine ⟨fun hst hp hpos hlen => ?_, fun e he hne hpos => ?_, fun e he hzero => ?_⟩
  · refine ⟨Memory.copyLow len.toNat s.rxbuf s.databuf,
      exec_data_of_established hst hpos ((acceptData_eq hlen (by exact hp)).trans ?_), fun i hi => ?_, fun i hi => ?_,
      fun ⟨hrx, hdata, _⟩ => Memory.wf_copyLow hrx hdata⟩
    · rw [logReceived, show classify ⟨seq, ackNum, len, Config.flagsData⟩ = .data from hkind.trans (if_pos hpos)]
      rfl
    · rw [Memory.read?_copyLow, if_pos hi]
    · rw [Memory.read?_copyLow, if_neg (Nat.not_lt.2 hi)]
  · have hk : classify (Instr.data seq ackNum len).header = .data := hkind.trans (if_pos hpos)
    rw [exec_of_unexpected (i := .data seq ackNum len) he (hk ▸ hne.symm) nofun, hk]
    rfl
  · have hk : classify (Instr.data seq ackNum len).header = .unknown :=
      hkind.trans (if_neg (by rw [hzero]; exact Nat.lt_irrefl 0))
    have hne : classify (Instr.data seq ackNum len).header ≠ e := hk ▸ (expects_fin_or_unknown he).2.symm
    rw [exec_of_unexpected (i := .data seq ackNum len) he hne nofun, hk]
    rfl

/-- Settles O20: accepted where a SYN is expected, rejected where another kind is. -/
theorem synIsAccepted : Obligations.SynIsAccepted := by
  intro seq ackNum len s
  refine ⟨fun hst hp => ?_, fun e he hne => exec_of_unexpected he hne.symm nofun⟩
  rw [exec_syn_of_listening hst, acceptSyn_eq (by exact hp)]
  rfl

/-- Settles O21: accepted where an ACK is expected, rejected where another kind is. -/
theorem ackIsAccepted : Obligations.AckIsAccepted := by
  intro seq ackNum len s
  refine ⟨fun hst => ?_, fun e he hne => exec_of_unexpected he hne.symm nofun⟩
  rw [exec_ack_of_synAckSent hst]
  rfl

/-- Settles O23: accepted where a FIN_ACK is expected, the close after the log event; rejected where another kind is. -/
theorem finAckIsAccepted : Obligations.FinAckIsAccepted := by
  intro seq ackNum len s
  refine ⟨fun hst => ?_, fun e he hne => exec_of_unexpected he hne.symm nofun⟩
  rw [exec_finAck_of_finSent hst]
  simp only [acceptFinAck, emitEpClose, logReceived, emitLog, List.append_assoc, List.cons_append, List.nil_append]
  rfl

/-- Settles O24: in SYN_RECEIVED the SYN_ACK is one send step. -/
theorem synAckIsSent : Obligations.SynAckIsSent := by
  intro seq ackNum len s hst herr hready hcnt
  rw [exec_synAck_of_synReceived hst, sendStep_accepted (txEvent_accepted herr hready) hcnt]
  rfl

/-- Settles O25: in DATA_RECEIVED the FIN is one send step. -/
theorem finIsSent : Obligations.FinIsSent := by
  intro seq ackNum len s hst herr hready hcnt
  rw [exec_fin_of_dataReceived hst, sendStep_accepted (txEvent_accepted herr hready) hcnt]
  rfl

/-- Settles O30: what is neither received nor sent is not taken. -/
theorem packetsAreNotTakenElsewhere : Obligations.PacketsAreNotTakenElsewhere :=
  fun _ _ he hsyn hfin => exec_of_expects_none he hsyn hfin
end

section
/-!
SUPPORT. Noninterference of the header fields the state machine ignores (R143): what is logged of a packet reaches the
log alone, as no acceptance reads the log.
-/

namespace Sys2Proof.Machine

/-- The state with another log: the event shown and the trace. -/
def State.withLog (l : Option LogEvent) (tr : List OutEvent) (s : State) : State := { s with logPulse := l, trace := tr }

/-- An action on the state that does the same, but for the log, whatever the log holds. -/
def BlindToLog (act : State → State) : Prop :=
  ∀ (s : State) (l : Option LogEvent) (tr : List OutEvent), ∃ l' tr', act (s.withLog l tr) = (act s).withLog l' tr'

/-- A next state with another log is the same outcome but for the log. -/
theorem sameButLog_next (t : State) (l : Option LogEvent) (tr : List OutEvent) :
    sameButLog (.next t) (.next (t.withLog l tr)) := ⟨l, tr, rfl⟩

/-- An outcome is the same as itself. -/
theorem sameButLog_refl (o : Outcome) : sameButLog o o := by
  cases o with
  | next t => exact sameButLog_next t t.logPulse t.trace
  | fault f => rfl
  | refused r => rfl

/-- A packet that is logged in the place of another leaves another log. -/
theorem logReceived_withLog (h h' : Header) (s : State) :
    ∃ l tr, logReceived h' s = (logReceived h s).withLog l tr := ⟨_, _, rfl⟩

/-- The rejections of two packets of the same kind differ in the log only. -/
theorem rejectAs_withLog (e : Kind) {h h' : Header} (hk : classify h' = classify h) (s : State) :
    ∃ l tr, rejectAs e h' s = (rejectAs e h s).withLog l tr :=
  ⟨_, _, by simp only [rejectAs, hk]; rfl⟩

/-- Entering a send state does not read the log. -/
theorem enterSend_blindToLog (st : FsmState) (q : Header) : BlindToLog (enterSend st q) := by
  intro s l tr
  have hcheck : serCheck (setTxHeader q { s.withLog l tr with txcnt := 0#12, state := st }) =
      serCheck (setTxHeader q { s with txcnt := 0#12, state := st }) := rfl
  simp only [enterSend, hcheck]
  split
  · exact ⟨l, tr, rfl⟩
  · exact ⟨l, tr ++ [.epClose], rfl⟩

/-- The acceptance of a SYN does not read the log. -/
theorem acceptSyn_blindToLog (seq : Word) : BlindToLog (acceptSyn seq) := fun s =>
  enterSend_blindToLog .synReceived (mkSynAck s.cfgIss (plusOne seq)).toHeader { s with irs := seq, pnx := plusOne seq }

/-- The acceptance of an ACK does not read the log. -/
theorem acceptAck_blindToLog (a : Word) : BlindToLog (acceptAck a) := fun _ l tr => ⟨l, tr, rfl⟩

/-- The acceptance of a FIN_ACK does not read the log: it puts the close behind it. -/
theorem acceptFinAck_blindToLog : BlindToLog acceptFinAck := fun _ l tr => ⟨l, tr ++ [.epClose], rfl⟩

/-- The acceptance of a DATA packet does not read the log: it stops alike, or leaves states that differ in the log
only. -/
theorem acceptData_blindToLog (len : Half) (s : State) (l : Option LogEvent) (tr : List OutEvent) :
    (∃ f, acceptData len s = .error f ∧ acceptData len (s.withLog l tr) = .error f) ∨
    ∃ t l' tr', acceptData len s = .ok t ∧ acceptData len (s.withLog l tr) = .ok (t.withLog l' tr') := by
  by_cases hlen : len.toNat ≤ Config.maxPayload
  · simp only [acceptData, copyPayload, if_pos hlen]
    obtain ⟨l', tr', e⟩ := enterSend_blindToLog .dataReceived (mkFin s.pnx 0#32).toHeader
      { s with databuf := Memory.copyLow len.toNat s.rxbuf s.databuf, dataLen := len } l tr
    exact .inr ⟨_, l', tr', rfl, congrArg Except.ok e⟩
  · simp only [acceptData, copyPayload, if_neg hlen]
    exact .inl ⟨_, rfl, rfl⟩

/-! ## Two packets of the same kind -/

/-- The kind of a packet is a matter of its flags and length (R121). -/
theorem classify_congr {h h' : Header} (hflags : h'.flags = h.flags) (hlen : h'.len = h.len) :
    classify h' = classify h := by
  simp only [classify_eq, hflags, hlen]

section
variable {h h' : Header} (hk : classify h' = classify h) (s : State)
include hk

/-- Two packets of the same kind are dispatched alike to an acceptance that does not read the log. -/
theorem receive_sameButLog {act : State → State} (hact : BlindToLog act) :
    sameButLog (receive h act s) (receive h' act s) := by
  simp only [receive, hk]
  cases s.state.expects with
  | none => exact sameButLog_refl _
  | some e =>
    by_cases hc : classify h = e
    · obtain ⟨l, tr, hlog⟩ := logReceived_withLog h h' s
      obtain ⟨l', tr', e⟩ := hact (logReceived h s) l tr
      simp only [if_pos hc, hlog, e]
      exact sameButLog_next _ l' tr'
    · obtain ⟨l, tr, hrej⟩ := rejectAs_withLog e hk s
      simp only [if_neg hc, hrej]
      exact sameButLog_next _ l tr

/-- Two packets of the same kind are rejected alike. -/
theorem receiveUnexpected_sameButLog : sameButLog (receiveUnexpected h s) (receiveUnexpected h' s) := by
  simp only [receiveUnexpected]
  cases s.state.expects with
  | none => exact sameButLog_refl _
  | some e =>
    obtain ⟨l, tr, hrej⟩ := rejectAs_withLog e hk s
    simp only [hrej]
    exact sameButLog_next _ l tr

end

/-- A choice made alike between outcomes that are the same but for the log. -/
theorem sameButLog_ite {c : Prop} [Decidable c] {o₁ o₂ o₁' o₂' : Outcome} (h₁ : sameButLog o₁ o₁')
    (h₂ : sameButLog o₂ o₂') : sameButLog (if c then o₁ else o₂) (if c then o₁' else o₂') := by
  split
  · exact h₁
  · exact h₂

/-- Two DATA packets of the same length do the same but for the log (R136). -/
theorem execData_sameButLog (seq seq' a a' : Word) (len : Half) (s : State) :
    sameButLog (execData seq a len s) (execData seq' a' len s) := by
  have hk : classify ⟨seq', a', len, Config.flagsData⟩ = classify ⟨seq, a, len, Config.flagsData⟩ :=
    classify_congr rfl rfl
  simp only [execData, hk]
  cases s.state.expects with
  | none => exact sameButLog_refl _
  | some e =>
    by_cases hc : classify ⟨seq, a, len, Config.flagsData⟩ = e
    · obtain ⟨l, tr, hlog⟩ :=
        logReceived_withLog ⟨seq, a, len, Config.flagsData⟩ ⟨seq', a', len, Config.flagsData⟩ s
      simp only [if_pos hc, hlog]
      rcases acceptData_blindToLog len (logReceived ⟨seq, a, len, Config.flagsData⟩ s) l tr with
        ⟨f, hf, hf'⟩ | ⟨t, l', tr', ht, ht'⟩
      · simp only [hf, hf']
        exact sameButLog_refl _
      · simp only [ht, ht']
        exact sameButLog_next t l' tr'
    · obtain ⟨l, tr, hrej⟩ := rejectAs_withLog e hk s
      simp only [if_neg hc, hrej]
      exact sameButLog_next _ l tr

end Sys2Proof.Machine

open Sys2Proof Sys2Proof.Machine

/-- Settles O33: the two packets have the same kind, and what is logged of them is read by no acceptance. -/
theorem ignoredFieldsChangeOnlyTheLog : Obligations.IgnoredFieldsChangeOnlyTheLog := by
  intro seq seq' a a' len s
  have hrejected (flags : Half) :
      sameButLog (receiveUnexpected ⟨seq, a, len, flags⟩ s) (receiveUnexpected ⟨seq', a', len, flags⟩ s) :=
    receiveUnexpected_sameButLog (by exact classify_congr rfl rfl) s
  refine ⟨?syn, ?ack, ?data, ?fin, ?finAck, ?synAck⟩
  case syn => exact receive_sameButLog (by exact classify_congr rfl rfl) s (acceptSyn_blindToLog seq)
  case ack => exact receive_sameButLog (by exact classify_congr rfl rfl) s (acceptAck_blindToLog a)
  case data => exact execData_sameButLog seq seq' a a' len s
  case fin => exact sameButLog_ite (sameButLog_refl _) (hrejected _)
  case finAck => exact receive_sameButLog (by exact classify_congr rfl rfl) s acceptFinAck_blindToLog
  case synAck => exact sameButLog_ite (sameButLog_refl _) (sameButLog_ite (sameButLog_refl _) (hrejected _))
end

section
/-!
SUPPORT. A step by what its cycle brings (R6, R132, R142): a wait, the packet a send state is sending, and a delivered
packet of unknown kind.
-/

namespace Sys2Proof.Machine

/-! ## The cycle -/

/-- A cycle without an event is a wait (log entry 8). -/
theorem step_of_no_event {s s1 : State} (hb : beginCycle s = .ok s1) (hev : eventOf s1 = none) : step s = .next s1 := by
  rw [step_of_begin hb, runEvent, hev]

/-- The events of a send state, without reset, are those of the TX stream: `start` is not accepted and no byte taken
(R55, R160). -/
theorem eventOf_of_isSend {s : State} (hs : s.state.isSend = true) (hrst : s.pins.rst = false) :
    eventOf s = (txEvent s).map .tx := by
  have hstart : startReady s = false := by simp only [startReady, busy, isBusy_of_isSend hs, Bool.not_true]
  have hrx : rxReady s = false := by simp only [rxReady, FsmState.isReceive, expects_of_isSend hs, Option.isSome_none]
  have htx : txValid s = true := hs
  simp only [eventOf, hrst, hstart, hrx, htx, Bool.and_false, Bool.false_eq_true, if_false, if_true]

/-- In a send state, without reset, the cycle's event is one send step of the packet in TXHDR, a wait among them
(R132). -/
theorem step_of_isSend {s s1 : State} (hb : beginCycle s = .ok s1) (hs : s1.state.isSend = true)
    (hrst : s1.pins.rst = false) : step s = exec (sendInstr s1) s1 := by
  have hev := eventOf_of_isSend hs hrst
  cases htx : txEvent s1 with
  | none =>
    rw [step_of_no_event hb (by rw [hev, htx]; rfl)]
    rcases exec_sendInstr hs with ⟨_, e⟩ | ⟨_, e⟩ <;> rw [e, sendStep_wait htx]
  | some e => simp only [step_of_begin hb, runEvent, hev, htx, Option.map_some]

/-! ## The packet being sent -/

/-- In a state that meets the invariant the packet being sent has TXHDR's header (R134, R137). -/
theorem Inv.sendInstr_header {s : State} (h : Inv s) (hs : s.state.isSend = true) :
    (sendInstr s).header = txHeader s ∧ (sendInstr s).wf = true := by
  obtain ⟨hsyn, hfin⟩ := h.txPacket
  rcases exec_sendInstr hs with ⟨hst, _⟩ | ⟨hst, _⟩
  · have hhdr : txHeader s = (mkSynAck s.cfgIss s.pnx).toHeader := by rw [txHeader, hsyn hst, Header.ofBits_toBits]
    have hne : s.state ≠ .dataReceived := by rw [hst]; decide
    rw [sendInstr, if_neg hne, hhdr]
    exact ⟨rfl, rfl⟩
  · have hhdr : txHeader s = (mkFin s.pnx 0#32).toHeader := by rw [txHeader, hfin hst, Header.ofBits_toBits]
    rw [sendInstr, if_pos hst, hhdr]
    exact ⟨rfl, rfl⟩

/-! ## A delivered packet of unknown kind -/

/-- The delivery of a packet of unknown kind is its rejection, whether its header is of no row, or of SYN_ACK's with
CFG.STRICT 0 (R76, R142). -/
theorem deliver_of_unknown {s : State} {e : Kind} (he : s.state.expects = some e)
    (hk : classify (rxHeader s) = .unknown) (hflags : definedFlags (rxHeader s).flags = false → s.cfgStrict = false) :
    deliver s = .next (kindError e .unknown (rxHeader s) s) := by
  unfold deliver
  cases hd : decodeHeader s.rxhdr with
  | error d =>
    rw [← hk]
    exact receiveUnexpected_of_expects he
  | ok i =>
    obtain ⟨hi, _⟩ := decodeFields_ok hd
    have hi : i.header = rxHeader s := hi
    have hne : classify (rxHeader s) ≠ e := hk ▸ (expects_fin_or_unknown he).2.symm
    have hx := exec_of_unexpected (i := i) he (hi ▸ hne) (hi ▸ hflags)
    rwa [hi, hk] at hx

end Sys2Proof.Machine

open Sys2Proof Sys2Proof.Machine

/-- Settles O35, by the events of a send state. -/
theorem stepRunsThePacketBeingSent : Obligations.StepRunsThePacketBeingSent :=
  fun _ _ hb hs hrst => step_of_isSend hb hs hrst

/-- Settles O36: TXHDR's header is the instruction's, and a well-formed instruction decodes from its header. -/
theorem packetBeingSentIsDecodedFromTxhdr : Obligations.PacketBeingSentIsDecodedFromTxhdr := by
  intro s h hs
  obtain ⟨hhdr, hw⟩ := h.sendInstr_header hs
  have hd := decodeFields_header hw
  rw [hhdr] at hd
  exact ⟨hd, hw⟩

/-- Settles O37: the byte completes the packet, and its delivery is the rejection. -/
theorem stepRejectsUnknownPackets : Obligations.StepRejectsUnknownPackets := by
  intro s s1 s2 b e hb hev hdes hk hflags he
  rw [step_of_byte hb hev, hdes]
  exact deliver_of_unknown he hk hflags

/-- Settles O44: the ports sampled are written out, and a cycle without an event is a wait. -/
theorem stepWaitsWithoutAnEvent : Obligations.StepWaitsWithoutAnEvent := by
  intro s s1 hb c offered dropsLevels
  refine ⟨?_, step_of_no_event hb⟩
  have hoffered : (!(heldBytes c s ++ c.arrive).isEmpty) = decide (offered ≠ []) := by
    rw [Bool.eq_iff_iff, Bool.not_eq_true', List.isEmpty_eq_false_iff, decide_eq_true_iff]
    exact Iff.rfl
  rw [beginCycle_ok hb, openCycle, cyclePins, hoffered]
  rfl
end

section
/-!
SUPPORT. STATE moves along the rows of the next-state table (R139).
-/

namespace Sys2Proof.Machine

/-- STATE moves as a row of the table says, or stays. -/
abbrev MovesByTheTable (s t : State) : Prop := s.state.mayBecome t.state = true

/-- Every STATE may stay. -/
theorem mayBecome_self (st : FsmState) : st.mayBecome st = true := by simp [FsmState.mayBecome]

/-- Every STATE may be left for IDLE, by reset. -/
theorem mayBecome_idle (st : FsmState) : st.mayBecome .idle = true := by simp [FsmState.mayBecome]

/-- A busy STATE may be left for FAILED. -/
theorem mayBecome_failed {st : FsmState} (hb : st.isBusy = true) : st.mayBecome .failed = true := by
  cases st <;> first | rfl | cases hb

/-- `start` leads from a STATE that is not busy to LISTENING. -/
theorem mayBecome_listening {st : FsmState} (hb : st.isBusy = false) : st.mayBecome .listening = true := by
  cases st <;> first | rfl | cases hb

/-- Entering a send state leads to it, or to FAILED. -/
theorem enterSend_state (st : FsmState) (q : Header) (s : State) :
    (enterSend st q s).state = st ∨ (enterSend st q s).state = .failed := by
  rcases enterSend_cases st q s with e | e <;> rw [e]
  · exact .inl rfl
  · exact .inr rfl

/-- The delivery of a packet moves STATE by the table (R131, R133, R135, R136, R138). -/
theorem deliver_movesByTheTable {s t : State} {e : Kind} (hlen : rxLen s ≤ 2048) (he : s.state.expects = some e)
    (h : deliver s = .next t) : MovesByTheTable s t := by
  have hfail := mayBecome_failed (isBusy_of_isReceive (isReceive_of_expects he))
  rcases deliver_cases hlen he h with ⟨_, rfl⟩ | ⟨_, rfl⟩ | ⟨hst, _, rfl⟩ | ⟨hst, _, rfl⟩ | ⟨hst, _, _, ha⟩ |
    ⟨hst, _, rfl⟩
  · exact hfail
  · exact hfail
  · rcases enterSend_state .synReceived _ _ with e | e <;> rw [MovesByTheTable, hst, acceptSyn, e] <;> rfl
  · rw [MovesByTheTable, hst]
    rfl
  · obtain ⟨_, rfl⟩ := acceptData_ok ha
    rcases enterSend_state .dataReceived _ _ with e | e <;> rw [MovesByTheTable, hst, e] <;> rfl
  · rw [MovesByTheTable, hst]
    rfl

/-- A step of sending leaves STATE, or leads to the state after it, or to FAILED (R132). -/
theorem sendStep_state {k : Kind} {nxt : FsmState} {s t : State} (h : sendStep k nxt s = .next t) :
    t.state = s.state ∨ t.state = nxt ∨ t.state = .failed := by
  rcases sendStep_next h with ⟨_, rfl⟩ | ⟨_, rfl⟩ | ⟨_, _, _, ⟨_, rfl⟩ | ⟨_, rfl⟩⟩
  · exact .inl rfl
  · exact .inr (.inr rfl)
  · exact .inl rfl
  · exact .inr (.inl rfl)

/-- A step of a send state moves STATE by the table (R134, R137). -/
theorem exec_sendInstr_movesByTheTable {s t : State} (hs : s.state.isSend = true)
    (hx : exec (sendInstr s) s = .next t) : MovesByTheTable s t := by
  rcases exec_sendInstr hs with ⟨hst, e⟩ | ⟨hst, e⟩ <;> rw [e] at hx <;>
    rcases sendStep_state hx with hq | hq | hq <;> rw [MovesByTheTable, hq, hst] <;> rfl

/-- The effect of an event moves STATE by the table. -/
theorem runEvent_movesByTheTable {s t : State} (h : runEvent s = .next t) : MovesByTheTable s t := by
  rcases runEvent_next h with ⟨_, rfl⟩ | ⟨_, rfl⟩ | ⟨hev, rfl⟩ | ⟨b, _, hd⟩ | ⟨b, e, c, s2, _, he, _, rfl⟩ |
    ⟨b, e, s2, _, he, hst, hd, hdel⟩ | ⟨e, _, he, rfl⟩ | ⟨hs, hx⟩
  · exact mayBecome_self _
  · exact mayBecome_idle _
  · exact mayBecome_listening (eventOf_start hev).2
  · rw [MovesByTheTable, (desByte_more_same hd).state]
    exact mayBecome_self _
  · exact mayBecome_failed (isBusy_of_isReceive (isReceive_of_expects he))
  · have hmove := deliver_movesByTheTable (desByte_complete_len hd) (hst ▸ he) hdel
    rwa [MovesByTheTable, hst] at hmove
  · exact mayBecome_failed (isBusy_of_isReceive (isReceive_of_expects he))
  · exact exec_sendInstr_movesByTheTable hs hx

end Sys2Proof.Machine

open Sys2Proof Sys2Proof.Machine

/-- Settles O53: the cycle's beginning leaves STATE, and each event's effect moves it by the table. -/
theorem stateChangesByTheTable : Obligations.StateChangesByTheTable := by
  intro s t hstep
  obtain ⟨s1, _, rfl, hrun⟩ := step_next hstep
  exact runEvent_movesByTheTable (s := openCycle (nextCycle s) s) hrun
end

section
/-!
SUPPORT. The ordered lifecycle (R140), packet by packet: what a received packet, and one sent while the transport is
always ready, do to what the rest of the lifecycle and its result depend on.
-/

namespace Sys2Proof.Machine

/-! ## Runs -/

/-- `k` steps lead from `s` to `t`. -/
def Reaches (k : Nat) (s t : State) : Prop := Sys2Proof.core.run k s = .next t

/-- A run of one more step begins with a step. -/
theorem reaches_succ {k : Nat} {s t : State} : Reaches (k + 1) s t ↔ ∃ u, step s = .next u ∧ Reaches k u t := by
  constructor
  · intro h
    cases hstep : Sys2Proof.core.step s with
    | next u => exact ⟨u, hstep, (run_next k hstep).symm.trans h⟩
    | fault f => simp only [Reaches, Host.Core.run, hstep, reduceCtorEq] at h
    | refused r => simp only [Reaches, Host.Core.run, hstep, reduceCtorEq] at h
  · rintro ⟨u, hstep, h⟩
    exact (run_next k hstep).trans h

/-- Runs one after the other are a run. -/
theorem Reaches.trans {j k : Nat} {s t u : State} (h : Reaches j s t) (h' : Reaches k t u) : Reaches (j + k) s u := by
  induction j generalizing s with
  | zero =>
    cases h
    rwa [Nat.zero_add]
  | succ j ih =>
    obtain ⟨w, hstep, h⟩ := reaches_succ.1 h
    rw [Nat.succ_add]
    exact reaches_succ.2 ⟨w, hstep, ih h⟩

/-! ## The environment of the lifecycle -/

/-- A cycle in which the environment does nothing but show `tx_ready`. -/
def readyCycle : Cycle := { Cycle.quiet with txReady := true }

/-- No error of the TX stream is shown, and the next `m` cycles show `tx_ready` and nothing else; those after them are
quiet. -/
abbrev TxReady (m : Nat) (s : State) : Prop := s.pins.txErr = false ∧ s.script = List.replicate m readyCycle

/-- Such cycles bring no reset, no other endpoint and no new byte. -/
theorem TxReady.steady {m : Nat} {s : State} (h : TxReady m s) : Steady s := fun c hc => by
  rw [h.2] at hc
  rw [List.eq_of_mem_replicate hc]
  exact ⟨rfl, rfl, rfl⟩

/-- The ports and the script are the same. -/
abbrev SameEnv (s t : State) : Prop := t.pins = s.pins ∧ t.script = s.script

/-- Entering a send state touches neither ports nor script. -/
theorem enterSend_sameEnv (st : FsmState) (q : Header) (s : State) : SameEnv s (enterSend st q s) := by
  rcases enterSend_cases st q s with e | e <;> rw [e] <;> exact ⟨rfl, rfl⟩

/-- The delivery of a packet touches neither ports nor script. -/
theorem deliver_sameEnv {s t : State} {e : Kind} (hlen : rxLen s ≤ 2048) (he : s.state.expects = some e)
    (h : deliver s = .next t) : SameEnv s t := by
  rcases deliver_cases hlen he h with ⟨_, rfl⟩ | ⟨_, rfl⟩ | ⟨_, _, rfl⟩ | ⟨_, _, rfl⟩ | ⟨_, _, _, ha⟩ | ⟨_, _, rfl⟩
  · exact ⟨rfl, rfl⟩
  · exact ⟨rfl, rfl⟩
  · exact enterSend_sameEnv _ _ _
  · exact ⟨rfl, rfl⟩
  · obtain ⟨_, rfl⟩ := acceptData_ok ha
    exact enterSend_sameEnv _ _ _
  · exact ⟨rfl, rfl⟩

/-- A step of sending touches neither ports nor script. -/
theorem sendStep_sameEnv {k : Kind} {nxt : FsmState} {s t : State} (h : sendStep k nxt s = .next t) : SameEnv s t := by
  rcases sendStep_next h with ⟨_, rfl⟩ | ⟨_, rfl⟩ | ⟨_, _, _, ⟨_, rfl⟩ | ⟨_, rfl⟩⟩ <;> exact ⟨rfl, rfl⟩

/-- The effect of an event touches neither ports nor script. -/
theorem runEvent_sameEnv {s t : State} (h : runEvent s = .next t) : SameEnv s t := by
  rcases runEvent_next h with ⟨_, rfl⟩ | ⟨_, rfl⟩ | ⟨_, rfl⟩ | ⟨b, _, hd⟩ | ⟨b, e, c, s2, _, _, hd, rfl⟩ |
    ⟨b, e, s2, _, he, hst, hd, hdel⟩ | ⟨e, _, _, rfl⟩ | ⟨hs, hx⟩
  · exact ⟨rfl, rfl⟩
  · exact ⟨rfl, rfl⟩
  · exact ⟨rfl, rfl⟩
  · have hsame := desByte_more_same hd
    exact ⟨hsame.pins, hsame.script⟩
  · have hsame := desByte_raised_same hd
    exact ⟨hsame.pins, hsame.script⟩
  · have hsame := desByte_complete_same hd
    obtain ⟨hpins, hscript⟩ := deliver_sameEnv (desByte_complete_len hd) (hst ▸ he) hdel
    exact ⟨hpins.trans hsame.pins, hscript.trans hsame.script⟩
  · exact ⟨rfl, rfl⟩
  · rcases exec_sendInstr hs with ⟨_, e⟩ | ⟨_, e⟩ <;> rw [e] at hx <;> exact sendStep_sameEnv hx

/-- A step uses up one of the cycles. -/
theorem TxReady.step {m : Nat} {s t : State} (h : TxReady m s) (hstep : step s = .next t) : TxReady (m - 1) t := by
  obtain ⟨herr, hscript⟩ := h
  obtain ⟨s1, _, rfl, hrun⟩ := step_next hstep
  obtain ⟨hpins, hscript'⟩ := runEvent_sameEnv hrun
  constructor
  · have hquiet : (nextCycle s).txErr = false := by
      rw [nextCycle, hscript]
      cases m <;> rfl
    rw [hpins, openCycle_pins]
    simp only [cyclePins, heldLevel, herr, hquiet, Bool.false_and, Bool.or_false]
  · rw [hscript', openCycle_script, hscript, List.tail_replicate]

/-- A run uses up as many of the cycles as it has steps. -/
theorem TxReady.reaches {k m : Nat} {s t : State} (h : TxReady m s) (hrun : Reaches k s t) : TxReady (m - k) t := by
  induction k generalizing m s with
  | zero =>
    cases hrun
    exact h
  | succ k ih =>
    obtain ⟨u, hstep, hrun⟩ := reaches_succ.1 hrun
    have hend := ih (h.step hstep) hrun
    rwa [Nat.sub_sub, Nat.add_comm 1 k] at hend

/-! ## The milestones of a lifecycle -/

/-- What the rest of a lifecycle and its result depend on: not the packet in the receive unit, the ports, the coming
cycles or the pulses. -/
def State.view (s : State) : State :=
  { s with
    rxhdr := 0#96
    rxbuf := []
    pins := .zero
    script := []
    tick := 0
    epClosePulse := false
    logPulse := none }

/-- The stream bytes of a packet. -/
abbrev wireBytes (p : Packet) : List Byte := p.toHeader.bytes ++ p.payload

/-- The lifecycle started, with the peer's bytes at the transport (R160). -/
def started (strict : Bool) (iss : Word) (bytes : List Byte) (v : State) : State :=
  { clearRegisters .listening v with cfgStrict := strict, cfgIss := iss, rxIn := bytes }

/-- The SYN logged and accepted (R133). -/
def synTaken (p : Packet) (v : State) : State :=
  { v with
    trace := v.trace ++ [.log ⟨false, .syn, p.seq, p.ack, p.len, Config.flagsSyn⟩]
    irs := p.seq
    pnx := plusOne p.seq
    txhdr := (mkSynAck v.cfgIss (plusOne p.seq)).toHeader.toBits
    txcnt := 0#12
    state := .synReceived }

/-- The ACK logged and accepted (R135). -/
def ackTaken (p : Packet) (v : State) : State :=
  { v with
    trace := v.trace ++ [.log ⟨false, .ack, p.seq, p.ack, p.len, Config.flagsAck⟩]
    ackm := ackMatches v.cfgIss p.ack
    state := .established }

/-- The DATA packet logged and accepted, which leaves `m` in DATABUF (R136). -/
def dataTaken (p : Packet) (m : Memory) (v : State) : State :=
  { v with
    trace := v.trace ++ [.log ⟨false, .data, p.seq, p.ack, p.len, Config.flagsData⟩]
    databuf := m
    dataLen := p.len
    txhdr := (mkFin v.pnx 0#32).toHeader.toBits
    txcnt := 0#12
    state := .dataReceived }

/-- The FIN_ACK logged and accepted (R138). -/
def finAckTaken (p : Packet) (v : State) : State :=
  { v with
    trace := v.trace ++ [.log ⟨false, .finAck, p.seq, p.ack, p.len, Config.flagsFinAck⟩, .epClose]
    state := .closed }

/-- A byte sent (R91). -/
def byteSent (b : Byte) (v : State) : State := { v with txOut := v.txOut ++ [b], txcnt := v.txcnt + 1#12 }

/-- The packet with header `h` sent from its byte `i` on, and logged (R132). -/
def sent (k : Kind) (nxt : FsmState) (h : Header) (i : Nat) (v : State) : State :=
  { v with
    txOut := v.txOut ++ h.bytes.drop i
    trace := v.trace ++ [.log ⟨true, k, h.seq, h.ack, h.len, h.flags⟩]
    txcnt := 0#12
    state := nxt }

/-! ## Receiving a packet -/

/-- The transport offers a well-formed packet to the deserializer, which is at the start of one. -/
structure Offers (p : Packet) (rest : List Byte) (s : State) : Prop where
  wellFormed : p.wellFormed = true
  rxhcnt : s.rxhcnt = 0#4
  rxpcnt : s.rxpcnt = 0#12
  rxIn : s.rxIn = wireBytes p ++ rest

/-- The length of the packet offered is legal. -/
theorem Offers.len_legal {p : Packet} {rest : List Byte} {s : State} (h : Offers p rest s) : lenLegal p.len = true :=
  (lenLegal_iff p.len).2 ((wellFormed_iff p).1 h.wellFormed).1

/-- The packet offered in a receive state is run as the instruction of its header, in as many steps as it has bytes
(R131). -/
theorem run_offered {p : Packet} {rest : List Byte} {i : Instr} {m : Nat} {s : State} (h : Offers p rest s)
    (hi : i.header = p.toHeader) (hw : i.wf = true) (hdef : definedFlags i.header.flags = true)
    (hr : s.state.isReceive = true) (henv : TxReady m s) :
    ∃ t, Sys2Proof.core.run (wireBytes p).length s = exec i t ∧ t.view = { s.view with rxIn := rest } ∧
      ∀ j, j < p.payload.length → t.rxbuf.read? j = p.payload[j]? := by
  obtain ⟨_, hlen⟩ := (wellFormed_iff p).1 h.wellFormed
  have hplen : p.payload.length = i.header.len.toNat := by rw [hi, hlen]
  have hin : s.rxIn = encode i ++ p.payload ++ rest := by rw [h.rxIn, encode, hi]
  obtain ⟨t, hrun, _, hrest, hhcnt, hpcnt, hcells, _, _, hframe⟩ :=
    streamedPacketIsExecuted i p.payload rest s hw hplen hr (fun _ => hdef) h.rxhcnt h.rxpcnt hin henv.steady
  refine ⟨t, by rwa [List.length_append, Header.bytes_length], ?_, hcells⟩
  have hview := congrArg (fun u : State => { u.view with rxIn := rest }) hframe
  rw [← hrest, h.rxhcnt, h.rxpcnt, ← hhcnt, ← hpcnt] at hview
  rw [← hrest]
  exact hview

section
variable {p : Packet} {rest : List Byte} {m : Nat} {s : State} (h : Offers p rest s) (henv : TxReady m s)
include h henv

/-- A SYN offered in LISTENING is accepted (R133). -/
theorem reaches_synTaken (hk : classify p.toHeader = .syn) (hst : s.state = .listening) (hp : s.txplen = 0#16) :
    ∃ t, Reaches (wireBytes p).length s t ∧ t.view = synTaken p { s.view with rxIn := rest } := by
  have hflags : p.flags = Config.flagsSyn := (isSyn_iff _).1 (predicateOf_eq_true_iff.2 ⟨hk, nofun⟩)
  have hi : (Instr.syn p.seq p.ack p.len).header = p.toHeader := by rw [Instr.header, ← hflags]
  obtain ⟨t, hrun, hview, _⟩ := run_offered h hi h.len_legal rfl (by rw [hst]; rfl) henv
  have hst' : t.state = .listening := (congrArg State.state hview).trans hst
  have hp' : t.txplen = 0#16 := (congrArg State.txplen hview).trans hp
  rw [(synIsAccepted p.seq p.ack p.len t).1 hst' hp'] at hrun
  exact ⟨_, hrun, congrArg (synTaken p) hview⟩

/-- An ACK offered in SYN_ACK_SENT is accepted (R135). -/
theorem reaches_ackTaken (hk : classify p.toHeader = .ack) (hst : s.state = .synAckSent) :
    ∃ t, Reaches (wireBytes p).length s t ∧ t.view = ackTaken p { s.view with rxIn := rest } := by
  have hflags : p.flags = Config.flagsAck := (isAck_iff _).1 (predicateOf_eq_true_iff.2 ⟨hk, nofun⟩)
  have hi : (Instr.ack p.seq p.ack p.len).header = p.toHeader := by rw [Instr.header, ← hflags]
  obtain ⟨t, hrun, hview, _⟩ := run_offered h hi h.len_legal rfl (by rw [hst]; rfl) henv
  have hst' : t.state = .synAckSent := (congrArg State.state hview).trans hst
  rw [(ackIsAccepted p.seq p.ack p.len t).1 hst'] at hrun
  exact ⟨_, hrun, congrArg (ackTaken p) hview⟩

/-- A DATA packet offered in ESTABLISHED is accepted, and its payload is recorded in DATABUF (R136). -/
theorem reaches_dataTaken (hk : classify p.toHeader = .data) (hst : s.state = .established) (hp : s.txplen = 0#16) :
    ∃ t m, Reaches (wireBytes p).length s t ∧ t.view = dataTaken p m { s.view with rxIn := rest } ∧
      ∀ j, j < p.payload.length → m.read? j = p.payload[j]? := by
  obtain ⟨hmax, hlen⟩ := (wellFormed_iff p).1 h.wellFormed
  obtain ⟨hflags, hpos⟩ := (isData_iff _).1 (predicateOf_eq_true_iff.2 ⟨hk, nofun⟩)
  have hi : (Instr.data p.seq p.ack p.len).header = p.toHeader := by
    rw [Instr.header, show Config.flagsData = p.flags from hflags.symm]
  have hne : p.len ≠ 0#16 := fun hz => Nat.ne_of_gt hpos (congrArg BitVec.toNat hz)
  have hw : (Instr.data p.seq p.ack p.len).wf = true := Bool.and_eq_true_iff.2 ⟨h.len_legal, decide_eq_true hne⟩
  obtain ⟨t, hrun, hview, hcells⟩ := run_offered h hi hw rfl (by rw [hst]; rfl) henv
  have hst' : t.state = .established := (congrArg State.state hview).trans hst
  have hp' : t.txplen = 0#16 := (congrArg State.txplen hview).trans hp
  obtain ⟨m, hx, hcopied, _⟩ := (dataIsAccepted p.seq p.ack p.len t).1 hst' hp' hpos hmax
  rw [hx] at hrun
  exact ⟨_, m, hrun, congrArg (dataTaken p m) hview, fun j hj => (hcopied j (hlen ▸ hj)).trans (hcells j hj)⟩

/-- A FIN_ACK offered in FIN_SENT is accepted (R138). -/
theorem reaches_finAckTaken (hk : classify p.toHeader = .finAck) (hst : s.state = .finSent) :
    ∃ t, Reaches (wireBytes p).length s t ∧ t.view = finAckTaken p { s.view with rxIn := rest } := by
  have hflags : p.flags = Config.flagsFinAck := (isFinAck_iff _).1 (predicateOf_eq_true_iff.2 ⟨hk, nofun⟩)
  have hi : (Instr.finAck p.seq p.ack p.len).header = p.toHeader := by rw [Instr.header, ← hflags]
  obtain ⟨t, hrun, hview, _⟩ := run_offered h hi h.len_legal rfl (by rw [hst]; rfl) henv
  have hst' : t.state = .finSent := (congrArg State.state hview).trans hst
  rw [(finAckIsAccepted p.seq p.ack p.len t).1 hst'] at hrun
  exact ⟨_, hrun, congrArg (finAckTaken p) hview⟩

end

/-! ## Sending a packet -/

/-- A cycle that shows `tx_ready` and nothing else, in a send state: one send step with an acceptance (R55, R132). -/
theorem step_accepts {m : Nat} {s : State} (hs : s.state.isSend = true) (hm : 0 < m) (henv : TxReady m s) :
    ∃ s1, step s = exec (sendInstr s1) s1 ∧ txEvent s1 = some .accepted ∧ s1.view = s.view := by
  obtain ⟨herr, hscript⟩ := henv
  have hcycle : nextCycle s = readyCycle := by
    rw [nextCycle, hscript, ← Nat.succ_pred_eq_of_pos hm]
    rfl
  have hbegin : beginCycle s = .ok (openCycle readyCycle s) := by
    rw [beginCycle, hcycle]
    simp [readyCycle, Cycle.quiet]
  have herr1 : (openCycle readyCycle s).pins.txErr = false := by
    simp only [openCycle_pins, cyclePins, heldLevel, herr, Bool.false_and]
    rfl
  refine ⟨_, step_of_isSend hbegin hs rfl, txEvent_accepted herr1 rfl, ?_⟩
  have hin : (openCycle readyCycle s).rxIn = s.rxIn := List.append_nil _
  exact congrArg (fun r => ({ s with rxIn := r } : State).view) hin

/-- A packet is sent from byte `i` on by sending byte `i`, then the packet from the next byte on. -/
theorem sent_eq_sent_byteSent {k : Kind} {nxt : FsmState} {h : Header} {i : Nat} {b : Byte}
    (hb : h.bytes[i]? = some b) (v : State) : sent k nxt h i v = sent k nxt h (i + 1) (byteSent b v) := by
  obtain ⟨hi, rfl⟩ := List.getElem?_eq_some_iff.1 hb
  simp only [sent, byteSent, List.drop_eq_getElem_cons hi, List.append_assoc, List.cons_append, List.nil_append]

section
variable {k : Kind} {st nxt : FsmState} {h : Header} (hsend : st.isSend = true) (hlen : h.len = 0#16)
  (hexec : ∀ s : State, s.state = st → exec (sendInstr s) s = sendStep k nxt s)
include hsend hlen hexec

/-- One step of sending a packet without payload, the transport being ready: its byte TXCNT is sent, and after the last
one the packet is logged (R132). -/
theorem step_sends {m : Nat} {s : State} (hst : s.state = st) (hhdr : s.txhdr = h.toBits) (hcnt : s.txcnt.toNat < 12)
    (hm : 0 < m) (henv : TxReady m s) :
    ∃ t b, step s = .next t ∧ h.bytes[s.txcnt.toNat]? = some b ∧
      t.view = if s.txcnt.toNat + 1 = 12 then sent k nxt h 12 (byteSent b s.view) else byteSent b s.view := by
  obtain ⟨s1, hstep, hev, hview⟩ := step_accepts (hst ▸ hsend) hm henv
  have hst1 : s1.state = st := (congrArg State.state hview).trans hst
  have hhdr1 : s1.txhdr = h.toBits := (congrArg State.txhdr hview).trans hhdr
  have hcnt1 : s1.txcnt = s.txcnt := (congrArg State.txcnt hview :)
  have hfields : txHeader s1 = h := by rw [txHeader, hhdr1, Header.ofBits_toBits]
  have hlen1 : txLen s1 = 0 := by rw [txLen, hfields, hlen]; rfl
  rw [hexec s1 hst1, sendStep_accepted hev (hcnt1 ▸ hcnt), hlen1] at hstep
  refine ⟨_, headerByte s1.txhdr s1.txcnt.toNat, hstep, ?_, ?_⟩
  · rw [hhdr1, hcnt1]
    exact headerByte_toBits h _ hcnt
  · rw [← hview, ← hcnt1]
    split
    · simp only [sent, ← hfields, List.drop_of_length_le (Nat.le_of_eq (Header.bytes_length _)), List.append_nil]
      rfl
    · rfl

/-- A packet without payload that a send state has in TXHDR is sent to its end, one byte a step, and logged (R132). -/
theorem reaches_sent {n : Nat} :
    ∀ {m : Nat} {s : State}, s.state = st → s.txhdr = h.toBits → s.txcnt.toNat + (n + 1) = 12 → n < m → TxReady m s →
      ∃ t, Reaches (n + 1) s t ∧ t.view = sent k nxt h s.txcnt.toNat s.view := by
  induction n with
  | zero =>
    intro m s hst hhdr hcnt hm henv
    obtain ⟨t, b, hstep, hb, hview⟩ := step_sends hsend hlen hexec hst hhdr (by omega) hm henv
    rw [if_pos hcnt] at hview
    rw [sent_eq_sent_byteSent hb, hcnt]
    exact ⟨t, run_last hstep, hview⟩
  | succ n ih =>
    intro m s hst hhdr hcnt hm henv
    obtain ⟨u, b, hstep, hb, hu⟩ := step_sends hsend hlen hexec hst hhdr (by omega) (by omega) henv
    rw [if_neg (by omega)] at hu
    have hcnt' : u.txcnt.toNat = s.txcnt.toNat + 1 := by
      rw [show u.txcnt = s.txcnt + 1#12 from congrArg State.txcnt hu, BitVec.toNat_add, BitVec.toNat_ofNat]
      omega
    obtain ⟨t, hrun, hview⟩ := ih (s := u) ((congrArg State.state hu :).trans hst)
      ((congrArg State.txhdr hu :).trans hhdr) (by omega) (by omega) (henv.step hstep)
    refine ⟨t, reaches_succ.2 ⟨u, hstep, hrun⟩, ?_⟩
    rw [hview, hcnt', hu, ← sent_eq_sent_byteSent hb]

/-- A packet without payload is sent whole in twelve steps (R132). -/
theorem reaches_sentWhole {m : Nat} {s : State} (hst : s.state = st) (hhdr : s.txhdr = h.toBits)
    (hcnt : s.txcnt = 0#12) (hm : 12 ≤ m) (henv : TxReady m s) :
    ∃ t, Reaches 12 s t ∧ t.view = sent k nxt h 0 s.view := by
  obtain ⟨t, hrun, hview⟩ := reaches_sent (n := 11) hsend hlen hexec hst hhdr (by rw [hcnt]; rfl) (by omega) henv
  rw [hcnt] at hview
  exact ⟨t, hrun, hview⟩

end

/-- In SYN_RECEIVED the packet in TXHDR is sent as a SYN_ACK (R134). -/
theorem exec_sendInstr_synReceived {s : State} (hst : s.state = .synReceived) :
    exec (sendInstr s) s = sendStep .synAck .synAckSent s := by
  rcases exec_sendInstr (s := s) (by rw [hst]; rfl) with ⟨_, e⟩ | ⟨hother, _⟩
  · exact e
  · rw [hst] at hother
    cases hother

/-- In DATA_RECEIVED the packet in TXHDR is sent as a FIN (R137). -/
theorem exec_sendInstr_dataReceived {s : State} (hst : s.state = .dataReceived) :
    exec (sendInstr s) s = sendStep .fin .finSent s := by
  rcases exec_sendInstr (s := s) (by rw [hst]; rfl) with ⟨hother, _⟩ | ⟨_, e⟩
  · rw [hst] at hother
    cases hother
  · exact e

/-! ## The lifecycle -/

/-- The host connects an endpoint whose peer's bytes are all there and starts the block (R160, R212). -/
theorem reaches_started {strict : Bool} {iss : Word} {bytes : List Byte} {m : Nat} {s : State} (hidle : busy s = false)
    (hscript : s.script =
      { readyCycle with connect := true, arrive := bytes, start := true, cfgStrict := strict, cfgIss := iss } ::
        List.replicate m readyCycle) :
    ∃ t, Reaches 1 s t ∧ TxReady m t ∧ t.view = started strict iss bytes s.view := by
  generalize hc : ({ readyCycle with
    connect := true, arrive := bytes, start := true, cfgStrict := strict, cfgIss := iss } : Cycle) = c at hscript
  have hcycle : nextCycle s = c := by rw [nextCycle, hscript]; rfl
  have hbegin : beginCycle s = .ok (openCycle c s) := by
    rw [beginCycle, hcycle]
    simp [← hc, hidle, heldLevel]
  have hready : startReady (openCycle c s) = true := by
    show (!busy s) = true
    rw [hidle]
    rfl
  have hevent : eventOf (openCycle c s) = some .start := by
    rw [eventOf, hready, ← hc]
    rfl
  have hstep : step s = .next (startBlock (openCycle c s)) := by rw [step_of_begin hbegin, runEvent, hevent]
  refine ⟨_, run_last hstep, ⟨?_, by rw [startBlock_script, openCycle_script, hscript]; rfl⟩, by rw [← hc]; rfl⟩
  rw [startBlock_pins, openCycle_pins, ← hc]
  simp [cyclePins, heldLevel, readyCycle, Cycle.quiet]

/-- The SYN accepted, the SYN_ACK sent and the ACK accepted; `rest` is what the transport then holds. -/
def handshakeDone (p1 p2 : Packet) (rest : List Byte) (v : State) : State :=
  ackTaken p2
    { sent .synAck .synAckSent (mkSynAck v.cfgIss (plusOne p1.seq)).toHeader 0 (synTaken p1 v) with rxIn := rest }

/-- From LISTENING to ESTABLISHED (R133 to R135). -/
theorem reaches_handshakeDone {p1 p2 : Packet} {rest : List Byte} {m : Nat} {s : State}
    (h1 : Offers p1 (wireBytes p2 ++ rest) s) (hw2 : p2.wellFormed = true) (hk1 : classify p1.toHeader = .syn)
    (hk2 : classify p2.toHeader = .ack) (hst : s.state = .listening) (hp : s.txplen = 0#16) (henv : TxReady m s)
    (hm : (wireBytes p1).length + 12 ≤ m) :
    ∃ t, Reaches ((wireBytes p1).length + 12 + (wireBytes p2).length) s t ∧
      t.view = handshakeDone p1 p2 rest s.view := by
  obtain ⟨s1, hrun1, hview1⟩ := reaches_synTaken h1 henv hk1 hst hp
  have henv1 := henv.reaches hrun1
  obtain ⟨s2, hrun2, hview2⟩ := reaches_sentWhole (s := s1) rfl rfl (fun _ => exec_sendInstr_synReceived)
    (congrArg State.state hview1) (congrArg State.txhdr hview1) (congrArg State.txcnt hview1) (by omega) henv1
  rw [hview1] at hview2
  have h2 : Offers p2 rest s2 := ⟨hw2, (congrArg State.rxhcnt hview2 :).trans h1.rxhcnt,
    (congrArg State.rxpcnt hview2 :).trans h1.rxpcnt, congrArg State.rxIn hview2⟩
  obtain ⟨t, hrun3, hview3⟩ := reaches_ackTaken h2 (henv1.reaches hrun2) hk2 (congrArg State.state hview2)
  rw [hview2] at hview3
  exact ⟨t, (hrun1.trans hrun2).trans hrun3, hview3⟩

/-- The DATA packet accepted, which leaves `m` in DATABUF, the FIN sent and the FIN_ACK accepted. -/
def transferDone (p3 p4 : Packet) (m : Memory) (rest : List Byte) (v : State) : State :=
  finAckTaken p4 { sent .fin .finSent (mkFin v.pnx 0#32).toHeader 0 (dataTaken p3 m v) with rxIn := rest }

/-- From ESTABLISHED to CLOSED (R136 to R138). -/
theorem reaches_transferDone {p3 p4 : Packet} {rest : List Byte} {m : Nat} {s : State}
    (h3 : Offers p3 (wireBytes p4 ++ rest) s) (hw4 : p4.wellFormed = true) (hk3 : classify p3.toHeader = .data)
    (hk4 : classify p4.toHeader = .finAck) (hst : s.state = .established) (hp : s.txplen = 0#16) (henv : TxReady m s)
    (hm : (wireBytes p3).length + 12 ≤ m) :
    ∃ t buf, Reaches ((wireBytes p3).length + 12 + (wireBytes p4).length) s t ∧
      t.view = transferDone p3 p4 buf rest s.view ∧
      ∀ j, j < p3.payload.length → buf.read? j = p3.payload[j]? := by
  obtain ⟨s1, buf, hrun1, hview1, hcells⟩ := reaches_dataTaken h3 henv hk3 hst hp
  have henv1 := henv.reaches hrun1
  obtain ⟨s2, hrun2, hview2⟩ := reaches_sentWhole (s := s1) rfl rfl (fun _ => exec_sendInstr_dataReceived)
    (congrArg State.state hview1) (congrArg State.txhdr hview1) (congrArg State.txcnt hview1) (by omega) henv1
  rw [hview1] at hview2
  have h4 : Offers p4 rest s2 := ⟨hw4, (congrArg State.rxhcnt hview2 :).trans h3.rxhcnt,
    (congrArg State.rxpcnt hview2 :).trans h3.rxpcnt, congrArg State.rxIn hview2⟩
  obtain ⟨t, hrun3, hview3⟩ := reaches_finAckTaken h4 (henv1.reaches hrun2) hk4 (congrArg State.state hview2)
  rw [hview2] at hview3
  exact ⟨t, buf, (hrun1.trans hrun2).trans hrun3, hview3, hcells⟩

/-- A lifecycle that reached CLOSED with a payload in the cells of DATABUF below DATA_LEN has it in its result (R161). -/
theorem result_of_closed {s : State} {payload : List Byte} (hst : s.state = .closed)
    (hlen : s.dataLen.toNat = payload.length) (hcells : ∀ j, j < payload.length → s.databuf.read? j = payload[j]?) :
    result s = some (.success payload s.irs s.pnx s.ackm) := by
  have hpayload : (List.range payload.length).map (fun i => cellByte .databuf i s) = payload := by
    refine List.ext_getElem (by simp) fun j _ hj => ?_
    have hcell : (s.mem .databuf).read? j = some payload[j] := (hcells j hj).trans (List.getElem?_eq_getElem hj)
    simpa using cellByte_of_read? hcell
  simp only [result, hst, hlen, hpayload]

end Sys2Proof.Machine

open Sys2Proof Sys2Proof.Machine

/-- Settles O48, packet by packet: every milestone of the lifecycle is a function of the one before, so what the last one
holds is read off the first. -/
theorem orderedLifecycleReachesClosed : Obligations.OrderedLifecycleReachesClosed := by
  intro iss strict p1 p2 p3 p4 rest s hwf hk1 hk2 hk3 hk4 hidle hplen wire ready n hscript
  have hw3 := hwf p3 (by simp)
  obtain ⟨s1, hrun1, henv1, hview1⟩ := reaches_started hidle hscript
  have hin1 : s1.rxIn = wireBytes p1 ++ (wireBytes p2 ++ (wireBytes p3 ++ (wireBytes p4 ++ rest))) :=
    (congrArg State.rxIn hview1 :).trans (by simp only [started, List.append_assoc, wire])
  have hn : n = (wireBytes p1).length + (wireBytes p2).length + (wireBytes p3).length + (wireBytes p4).length + 24 :=
    rfl
  obtain ⟨s2, hrun2, hview2⟩ := reaches_handshakeDone (s := s1)
    ⟨hwf p1 (by simp), congrArg State.rxhcnt hview1, congrArg State.rxpcnt hview1, hin1⟩ (hwf p2 (by simp)) hk1 hk2
    (congrArg State.state hview1) ((congrArg State.txplen hview1 :).trans hplen) henv1 (by omega)
  rw [hview1] at hview2
  obtain ⟨t, buf, hrun3, hview3, hcells⟩ := reaches_transferDone (p3 := p3) (rest := rest) (s := s2)
    ⟨hw3, congrArg State.rxhcnt hview2, congrArg State.rxpcnt hview2, congrArg State.rxIn hview2⟩
    (hwf p4 (by simp)) hk3 hk4 (congrArg State.state hview2) ((congrArg State.txplen hview2 :).trans hplen)
    (henv1.reaches hrun2) (by omega)
  rw [hview2] at hview3
  have hsteps : 1 + ((wireBytes p1).length + 12 + (wireBytes p2).length) +
      ((wireBytes p3).length + 12 + (wireBytes p4).length) = n + 1 := by omega
  have hclosed : t.state = .closed := congrArg State.state hview3
  have hlen : t.dataLen = p3.len := congrArg State.dataLen hview3
  have hbuf : t.databuf = buf := congrArg State.databuf hview3
  refine ⟨t, ?run, hclosed, congrArg State.rxIn hview3, ?result, congrArg State.txOut hview3, ?trace⟩
  case run =>
    rw [← hsteps]
    exact (hrun1.trans hrun2).trans hrun3
  case result =>
    have hirs : t.irs = p1.seq := congrArg State.irs hview3
    have hpnx : t.pnx = p1.seq + 1#32 := congrArg State.pnx hview3
    have hackm : t.ackm = decide (p2.ack = iss + 1#32) := congrArg State.ackm hview3
    rw [← hpnx, ← hackm, ← hirs]
    refine result_of_closed hclosed ?_ fun j hj => by rw [hbuf, hcells j hj]
    rw [hlen, ((wellFormed_iff p3).1 hw3).2]
  case trace =>
    refine (congrArg State.trace hview3 :).trans ?_
    simp only [transferDone, handshakeDone, finAckTaken, dataTaken, ackTaken, synTaken, sent, List.append_assoc,
      List.cons_append, List.nil_append]
    rfl
end

section
/-!
SUPPORT. The close of a lifecycle (spec/43_driver.md R162): the pulse is shown in the step in which a busy block is
done, and in no other.
-/

namespace Sys2Proof.Machine

/-! ## The pulse and the end of a lifecycle -/

/-- The close pulse of `t` is shown exactly where `t` is the end of a lifecycle. -/
abbrev ShowsItsEnd (t : State) : Prop := t.epClosePulse = done t

/-- The close pulse of `t` is shown exactly where the block, busy in `s`, is done in `t`. -/
abbrev ClosesAsItEnds (s t : State) : Prop := t.epClosePulse = (busy s && done t)

/-- A busy block is not done (R26). -/
theorem isDone_eq_false_of_isBusy {st : FsmState} (hb : st.isBusy = true) : st.isDone = false := by
  cases st <;> first | rfl | cases hb

/-- What a busy block leads to closes as it ends where it shows its end. -/
theorem ShowsItsEnd.closesAsItEnds {s t : State} (h : ShowsItsEnd t) (hb : busy s = true) : ClosesAsItEnds s t := by
  rw [ClosesAsItEnds, hb, Bool.true_and]
  exact h

/-- With no close shown and a block that is not done, nothing ended. -/
theorem showsItsEnd_of_not_done {t : State} (hp : t.epClosePulse = false) (hd : done t = false) : ShowsItsEnd t :=
  hp.trans hd.symm

/-- With no close shown and a block that is not done, nothing ended, whatever came before (R160, R211). -/
theorem closesAsItEnds_of_not_done {s t : State} (hp : t.epClosePulse = false) (hd : done t = false) :
    ClosesAsItEnds s t := by
  rw [ClosesAsItEnds, hp, hd, Bool.and_false]

/-- With no close shown and STATE as before, nothing ended. -/
theorem closesAsItEnds_of_sameState {s t : State} (hp : t.epClosePulse = false) (hst : t.state = s.state) :
    ClosesAsItEnds s t := by
  cases hb : s.state.isBusy with
  | true => exact closesAsItEnds_of_not_done hp (by rw [done, hst, isDone_eq_false_of_isBusy hb])
  | false => rw [ClosesAsItEnds, busy, hp, hb, Bool.false_and]

/-! ## The operations of a busy block -/

/-- FAIL ends a lifecycle and closes it (R187). -/
theorem showsItsEnd_fail (c : ErrCode) (x a : Kind) (s : State) : ShowsItsEnd (fail c x a s) := rfl

/-- A send state is entered without a close, or refused by FAIL. -/
theorem showsItsEnd_enterSend {st : FsmState} {q : Header} {s : State} (hp : s.epClosePulse = false)
    (hs : st.isSend = true) : ShowsItsEnd (enterSend st q s) := by
  rcases enterSend_cases st q s with e | e <;> rw [e]
  · exact showsItsEnd_of_not_done hp (isDone_eq_false_of_isBusy (isBusy_of_isSend hs))
  · exact showsItsEnd_fail _ _ _ _

/-- The delivery of a packet closes with a rejection and with the FIN_ACK, which end the lifecycle (R131, R138). -/
theorem deliver_showsItsEnd {s t : State} {e : Kind} (hlen : rxLen s ≤ 2048) (he : s.state.expects = some e)
    (hp : s.epClosePulse = false) (h : deliver s = .next t) : ShowsItsEnd t := by
  rcases deliver_cases hlen he h with ⟨_, rfl⟩ | ⟨_, rfl⟩ | ⟨_, _, rfl⟩ | ⟨_, _, rfl⟩ | ⟨_, _, _, ha⟩ | ⟨_, _, rfl⟩
  · exact showsItsEnd_fail _ _ _ _
  · exact showsItsEnd_fail _ _ _ _
  · exact showsItsEnd_enterSend (by exact hp) rfl
  · exact showsItsEnd_of_not_done hp rfl
  · obtain ⟨_, rfl⟩ := acceptData_ok ha
    exact showsItsEnd_enterSend (by exact hp) rfl
  · rfl

/-- A step of sending closes with an error of the TX stream only (R132, R182). -/
theorem sendStep_showsItsEnd {k : Kind} {nxt : FsmState} {s t : State} (hp : s.epClosePulse = false)
    (hs : s.state.isSend = true) (hnxt : nxt.isDone = false) (h : sendStep k nxt s = .next t) : ShowsItsEnd t := by
  have hd : done s = false := isDone_eq_false_of_isBusy (isBusy_of_isSend hs)
  rcases sendStep_next h with ⟨_, rfl⟩ | ⟨_, rfl⟩ | ⟨_, _, _, ⟨_, rfl⟩ | ⟨_, rfl⟩⟩
  · exact showsItsEnd_of_not_done hp hd
  · exact showsItsEnd_fail _ _ _ _
  · exact showsItsEnd_of_not_done hp hd
  · exact showsItsEnd_of_not_done hp hnxt

/-- The effect of an event closes as it ends a busy block's lifecycle. -/
theorem runEvent_closesAsItEnds {s t : State} (hp : s.epClosePulse = false) (h : runEvent s = .next t) :
    ClosesAsItEnds s t := by
  have hreceive {e : Kind} (he : s.state.expects = some e) : busy s = true :=
    isBusy_of_isReceive (isReceive_of_expects he)
  rcases runEvent_next h with ⟨_, rfl⟩ | ⟨_, rfl⟩ | ⟨_, rfl⟩ | ⟨b, _, hd⟩ | ⟨b, e, c, s2, _, he, _, rfl⟩ |
    ⟨b, e, s2, _, he, hst, hd, hdel⟩ | ⟨e, _, he, rfl⟩ | ⟨hs, hx⟩
  · exact closesAsItEnds_of_sameState hp rfl
  · exact closesAsItEnds_of_not_done hp rfl
  · exact closesAsItEnds_of_not_done hp rfl
  · have hsame := desByte_more_same hd
    exact closesAsItEnds_of_sameState (hsame.epClosePulse.trans hp) hsame.state
  · exact (showsItsEnd_fail _ _ _ _).closesAsItEnds (hreceive he)
  · have hp2 : s2.epClosePulse = false := (desByte_complete_same hd).epClosePulse.trans hp
    exact (deliver_showsItsEnd (desByte_complete_len hd) (hst ▸ he) hp2 hdel).closesAsItEnds (hreceive he)
  · exact (showsItsEnd_fail _ _ _ _).closesAsItEnds (hreceive he)
  · refine ShowsItsEnd.closesAsItEnds ?_ (isBusy_of_isSend hs)
    rcases exec_sendInstr hs with ⟨_, e⟩ | ⟨_, e⟩ <;> rw [e] at hx <;> exact sendStep_showsItsEnd hp hs rfl hx

/-! ## The closes in the trace -/

/-- The closes of a trace continued are those of its parts. -/
theorem closeCount_append (l m : List OutEvent) : closeCount (l ++ m) = closeCount l + closeCount m :=
  List.countP_append

/-- A log event is no close. -/
theorem closeCount_log (l : List LogEvent) : closeCount (l.map .log) = 0 := by simp [closeCount]

/-- A step adds one close to the trace where it shows one, and none otherwise. -/
theorem closeCount_of_step {s t : State} (hstep : step s = .next t) :
    closeCount t.trace = closeCount s.trace + if t.epClosePulse = true then 1 else 0 := by
  rw [traceIsThePulses s t hstep, closeCount_append, closeCount_append, closeCount_log, Nat.add_zero]
  cases t.epClosePulse <;> rfl

end Sys2Proof.Machine

open Sys2Proof Sys2Proof.Machine

/-- Settles O54: the pulse of the cycle before ends as the cycle begins, its event's effect shows one exactly as it ends a
busy block's lifecycle, and the trace grows by what the pulse shows. -/
theorem closedExactlyOncePerLifecycle : Obligations.ClosedExactlyOncePerLifecycle := by
  intro s t hstep
  obtain ⟨s1, _, rfl, hrun⟩ := step_next hstep
  have hclose : ClosesAsItEnds s t := runEvent_closesAsItEnds (s := openCycle (nextCycle s) s) rfl hrun
  have hpulse : t.epClosePulse = true ↔ busy s = true ∧ done t = true := by rw [hclose, Bool.and_eq_true]
  refine ⟨?_, hpulse⟩
  simp only [closeCount_of_step hstep, hpulse]
end

section
/-!
SUPPORT. The driver's other two functions (spec/43_driver.md): what the result is by STATE (R161), and when `start` is
the event of the cycle (R160).
-/

namespace Sys2Proof.Machine

/-! ## The result (R161) -/

/-- The bytes of DATABUF below DATA_LEN, the payload of a success. -/
def recordedPayload (s : State) : List Byte := (List.range s.dataLen.toNat).map fun i => cellByte .databuf i s

/-- In CLOSED the result is a success with the recorded payload. -/
theorem result_of_state_closed {s : State} (hst : s.state = .closed) :
    result s = some (.success (recordedPayload s) s.irs s.pnx s.ackm) := by
  simp only [result, hst, recordedPayload]

/-- In FAILED the result is the failure record. -/
theorem result_of_state_failed {s : State} (hst : s.state = .failed) : result s = some (.failure s.err) := by
  simp only [result, hst]

/-- There is no result before the block is done. -/
theorem result_of_not_done {s : State} (hd : done s = false) : result s = none := by
  rw [done] at hd
  cases hst : s.state with
  | closed | failed => rw [hst] at hd; cases hd
  | idle | listening | synReceived | synAckSent | established | dataReceived | finSent => simp only [result, hst]

/-- The recorded payload has DATA_LEN bytes. -/
theorem length_recordedPayload (s : State) : (recordedPayload s).length = s.dataLen.toNat := by
  rw [recordedPayload, List.length_map, List.length_range]

/-- Byte `i` of the recorded payload is the byte in cell `i` of DATABUF. -/
theorem recordedPayload_getElem? {s : State} {i : Nat} {b : Byte} (hi : i < s.dataLen.toNat)
    (hcell : s.databuf.read? i = some b) : (recordedPayload s)[i]? = some b := by
  rw [recordedPayload, List.getElem?_map, List.getElem?_range hi, Option.map_some]
  exact congrArg some (cellByte_of_read? (sp := .databuf) hcell)

/-! ## The acceptance of `start` (R160) -/

/-- IDLE, CLOSED and FAILED are not busy. -/
theorem isBusy_eq_false_of_rest {st : FsmState} (h : st = .idle ∨ st = .closed ∨ st = .failed) : st.isBusy = false := by
  rcases h with rfl | rfl | rfl <;> rfl

/-- `start` is the event of the cycle where the block is not busy and not reset. -/
theorem eventOf_of_start {s : State} (hrst : s.pins.rst = false) (hstart : s.pins.start = true)
    (hidle : busy s = false) : eventOf s = some .start := by
  have hready : startReady s = true := by rw [startReady, hidle, Bool.not_false]
  simp only [eventOf, hrst, hstart, hready, Bool.false_eq_true, Bool.and_true, if_false, if_true]

/-- A step whose event is `start` (R160). -/
theorem step_of_start {s s1 : State} (hb : beginCycle s = .ok s1) (hev : eventOf s1 = some .start) :
    step s = .next (startBlock s1) := by
  rw [step_of_begin hb, runEvent, hev]

end Sys2Proof.Machine

open Sys2Proof Sys2Proof.Machine

/-- Settles O19: the result by STATE, and in CLOSED its payload is the recorded one. -/
theorem resultByState : Obligations.ResultByState := fun s =>
  ⟨result_of_not_done, result_of_state_failed, fun hst =>
    ⟨recordedPayload s, result_of_state_closed hst, length_recordedPayload s, fun _ _ => recordedPayload_getElem?⟩⟩

/-- Settles O42: in a state at rest, with no reset, `start` is the cycle's event. -/
theorem stepStartsALifecycle : Obligations.StepStartsALifecycle := fun _ _ hb hrst hstart hrest =>
  step_of_start hb (eventOf_of_start hrst hstart (isBusy_eq_false_of_rest hrest))
end

section
/-!
SUPPORT. The errors and their place among the events (spec/60_exceptions.md): the states the errors leave (R182 to
R187), the order of the events of one cycle (R186, R190), and what a block that is not busy does in a cycle (R189).
-/

namespace Sys2Proof.Machine

/-! ## The errors -/

/-- The abort sequence written out: ERR, STATE and one close, and nothing else (R187). -/
theorem fail_eq (code : ErrCode) (exp act : Kind) (s : State) :
    fail code exp act s =
      { s with
        err := ⟨code, s.state, exp, act⟩
        state := .failed
        epClosePulse := true
        trace := s.trace ++ [.epClose] } :=
  rfl

/-- The ports show an error of the TX stream, whether or not they show `tx_ready` too (R55). -/
theorem txEvent_of_txErr {s : State} (herr : s.pins.txErr = true) : txEvent s = some .txErr := if_pos herr

/-- The ports show no TX event (R55). -/
theorem txEvent_of_wait {s : State} (herr : s.pins.txErr = false) (hready : s.pins.txReady = false) :
    txEvent s = none := by
  simp only [txEvent, herr, hready, Bool.false_eq_true, if_false]

/-- A send step with an error of the TX stream is TruncatedStreamError, whatever has been accepted before (R91,
R182). -/
theorem sendStep_txErr {k : Kind} {nxt : FsmState} {s : State} (hev : txEvent s = some .txErr) :
    sendStep k nxt s = .next (fail .truncatedStream .none .none s) := by
  simp only [sendStep, hev, serEvent_txErr]

/-- SYN_ACK received with CFG.STRICT 1 is InvalidFlagsError: its flags are no defined value (R76, R184; log entry
10). -/
theorem exec_synAck_of_strict {seq a : Word} {len : Half} {s : State} {e : Kind} (he : s.state.expects = some e)
    (hstrict : s.cfgStrict = true) : exec (.synAck seq a len) s = .next (fail .invalidFlags e .unknown s) := by
  have hst : s.state ≠ .synReceived := fun hst => not_isSend_of_expects he (by rw [hst]; rfl)
  exact (if_neg hst).trans ((if_pos hstrict).trans (receiveError_of_expects he))

/-! ## The event of a cycle (R186, R190) -/

/-- Reset is above every event. -/
theorem eventOf_of_rst {s : State} (hrst : s.pins.rst = true) : eventOf s = some .reset := if_pos hrst

/-- The events of a receive state, without reset, are those of the RX stream: it is busy, so `start` is not accepted
(R54, R160). -/
theorem eventOf_of_rxReady {s : State} (hrx : rxReady s = true) (hrst : s.pins.rst = false) :
    eventOf s = rxEvent s := by
  have hstart : startReady s = false := by rw [startReady, busy, isBusy_of_isReceive hrx, Bool.not_true]
  simp only [eventOf, hrst, hstart, hrx, Bool.and_false, Bool.false_eq_true, if_false, if_true]

/-- A block that is not busy has no event but reset and `start`: it offers neither `rx_ready` nor `tx_valid` (R189). -/
theorem eventOf_of_not_busy {s : State} (hidle : busy s = false) (hrst : s.pins.rst = false)
    (hstart : s.pins.start = false) : eventOf s = none := by
  obtain ⟨hrx, htx⟩ : rxReady s = false ∧ txValid s = false := Bool.or_eq_false_iff.1 hidle
  simp only [eventOf, hrst, hstart, hrx, htx, Bool.false_and, Bool.false_eq_true, if_false]

/-- A byte on offer comes before the end of the stream (R54). -/
theorem rxEvent_of_cons {s : State} {b : Byte} {bs : List Byte} (hin : s.rxIn = b :: bs) :
    rxEvent s = some (.byte b) := by
  simp only [rxEvent, hin]

/-- With no byte on offer the level `rx_eos` says whether the stream has ended (R54). -/
theorem rxEvent_of_nil {s : State} (hin : s.rxIn = []) : rxEvent s = if s.pins.rxEos then some .eos else none := by
  simp only [rxEvent, hin]

/-! ## A block that is not busy (R189) -/

/-- What the effect of an event can be where the block is not busy: reset, a new lifecycle, or a wait. -/
theorem runEvent_of_not_busy {s t : State} (hidle : busy s = false) (h : runEvent s = .next t) :
    (s.pins.rst = true ∧ t = resetBlock s) ∨ (s.pins.start = true ∧ t = startBlock s) ∨ t = s := by
  unfold runEvent at h
  cases hrst : s.pins.rst with
  | true =>
    rw [eventOf_of_rst hrst] at h
    cases h
    exact .inl ⟨rfl, rfl⟩
  | false =>
    cases hstart : s.pins.start with
    | true =>
      rw [eventOf_of_start hrst hstart hidle] at h
      cases h
      exact .inr (.inl ⟨rfl, rfl⟩)
    | false =>
      rw [eventOf_of_not_busy hidle hrst hstart] at h
      cases h
      exact .inr (.inr rfl)

end Sys2Proof.Machine

open Sys2Proof Sys2Proof.Machine

/-- Settles O28: the rejection of every instruction of another kind, read for the two kinds that no receive state
expects. -/
theorem otherKindsAreRejected : Obligations.OtherKindsAreRejected := by
  intro e s he
  obtain ⟨hfin, hunknown⟩ := expects_fin_or_unknown he
  exact ⟨fun i hk hflags => exec_of_unexpected he hk hflags,
    fun seq ackNum len => exec_of_unexpected (i := .fin seq ackNum len) he hfin.symm nofun,
    fun hstrict seq ackNum len => exec_of_unexpected (i := .synAck seq ackNum len) he hunknown.symm fun _ => hstrict⟩

/-- Settles O60: the opened cycle has the old STATE, and of the events of a block that is not busy none touches a stream
or the trace. -/
theorem terminalStatesTakeNoStreamEvent : Obligations.TerminalStatesTakeNoStreamEvent := by
  intro s t hstep hidle
  obtain ⟨s1, _, rfl, hrun⟩ := step_next hstep
  rcases runEvent_of_not_busy (s := openCycle (nextCycle s) s) hidle hrun with ⟨hrst, rfl⟩ | ⟨hstart, rfl⟩ | rfl
  · exact ⟨rfl, rfl, rfl, .inl ⟨hrst, rfl⟩⟩
  · exact ⟨rfl, rfl, rfl, .inr (.inl ⟨hstart, rfl⟩)⟩
  · exact ⟨rfl, rfl, rfl, .inr (.inr ⟨rfl, rfl, rfl, rfl⟩)⟩

/-- Settles O15: the abort sequence written out. -/
theorem abortSequence : Obligations.AbortSequence := fail_eq

/-- Settles O26: in its send state each of the two packets is one send step, and the step's event is the error. -/
theorem sendErrorIsTruncatedStream : Obligations.SendErrorIsTruncatedStream := by
  intro seq ackNum len s herr
  have hev := txEvent_of_txErr herr
  constructor
  · intro hst
    rw [exec_synAck_of_synReceived hst, sendStep_txErr hev, fail_eq, hst]
  · intro hst
    rw [exec_fin_of_dataReceived hst, sendStep_txErr hev, fail_eq, hst]

/-- Settles O29: InvalidFlagsError in a receive state, whatever the length. -/
theorem receivedSynAckIsInvalidFlagsIfStrict : Obligations.ReceivedSynAckIsInvalidFlagsIfStrict :=
  fun _ _ _ _ _ he hstrict _ => exec_synAck_of_strict he hstrict

/-- Settles O45: reset; `start`; the RX stream's events in a receive state; the TX stream's in a send state; and none
where the block is not busy. -/
theorem eventPriorities : Obligations.EventPriorities := by
  intro s
  refine ⟨eventOf_of_rst, eventOf_of_start, fun hrst hrx b bs hin => ?byte, fun hrst hrx hin heos => ?eos,
    fun hrst hrx hin heos => ?rxWait, fun hrst htx herr => ?txErr, fun hrst htx herr hready => ?accepted,
    fun hrst htx herr hready => ?txWait, fun hrst hstart hidle => eventOf_of_not_busy hidle hrst hstart⟩
  case byte => rw [eventOf_of_rxReady hrx hrst, rxEvent_of_cons hin]
  case eos => rw [eventOf_of_rxReady hrx hrst, rxEvent_of_nil hin, if_pos heos]
  case rxWait => rw [eventOf_of_rxReady hrx hrst, rxEvent_of_nil hin, heos]; rfl
  case txErr => rw [eventOf_of_isSend htx hrst, txEvent_of_txErr herr]; rfl
  case accepted => rw [eventOf_of_isSend htx hrst, txEvent_accepted herr hready]; rfl
  case txWait => rw [eventOf_of_isSend htx hrst, txEvent_of_wait herr hready]; rfl
end

section
/-!
SUPPORT. What a cycle may bring above the block's own events: reset (spec/70_reset_and_hazards.md R210, R211), and an
environment that breaks a contract (R214, U14).
-/

namespace Sys2Proof.Machine

/-! ## Reset (R210, R211) -/

/-- A step in whose cycle `rst` is 1. -/
theorem step_of_rst {s s1 : State} (hb : beginCycle s = .ok s1) (hrst : s1.pins.rst = true) :
    step s = .next (resetBlock s1) := by
  rw [step_of_begin hb, runEvent, eventOf_of_rst hrst]

/-! ## The contracts of the environment (R214) -/

/-- A level is carried into the cycle unless a fresh endpoint, reset or EpClose ends it (R214 c, d). -/
theorem heldLevel_eq_true_iff {c : Cycle} {level : Bool} {s : State} :
    heldLevel c level s = true ↔
      level = true ∧ c.connect = false ∧ c.rst = false ∧ s.epClosePulse = false := by
  simp only [heldLevel, Bool.and_eq_true, Bool.not_eq_true', Bool.or_eq_false_iff, and_assoc]

/-- The environment connects another endpoint to a busy block outside reset (R214 f). -/
def ChangesEndpointWhileBusy (s : State) : Prop :=
  (nextCycle s).connect = true ∧ busy s = true ∧ (nextCycle s).rst = false

/-- The environment offers a byte after a cycle that showed the end of the stream, whose level still stands (R214 c; log
entry 21). -/
def OffersByteAfterEos (s : State) : Prop :=
  (nextCycle s).connect = false ∧ (nextCycle s).rst = false ∧ s.epClosePulse = false ∧
    s.pins.rxEos = true ∧ s.pins.rxValid = false ∧ (nextCycle s).arrive ≠ []

/-- The first check of `beginCycle`. -/
theorem changesEndpointWhileBusy_iff {s : State} :
    ((nextCycle s).connect && busy s && !(nextCycle s).rst) = true ↔ ChangesEndpointWhileBusy s := by
  simp only [ChangesEndpointWhileBusy, Bool.and_eq_true, Bool.not_eq_true', and_assoc]

/-- The second check of `beginCycle`. -/
theorem offersByteAfterEos_iff {s : State} :
    (heldLevel (nextCycle s) s.pins.rxEos s && !s.pins.rxValid && !(nextCycle s).arrive.isEmpty) = true ↔
      OffersByteAfterEos s := by
  simp only [OffersByteAfterEos, Bool.and_eq_true, heldLevel_eq_true_iff, Bool.not_eq_true', List.isEmpty_eq_false_iff]
  constructor
  · rintro ⟨⟨⟨heos, hconn, hrst, hclose⟩, hvalid⟩, harrive⟩
    exact ⟨hconn, hrst, hclose, heos, hvalid, harrive⟩
  · rintro ⟨hconn, hrst, hclose, heos, hvalid, harrive⟩
    exact ⟨⟨⟨heos, hconn, hrst, hclose⟩, hvalid⟩, harrive⟩

/-- A cycle does not begin exactly when a contract is broken. -/
theorem beginCycle_error_iff {s : State} :
    (∃ r, beginCycle s = .error r) ↔ ChangesEndpointWhileBusy s ∨ OffersByteAfterEos s := by
  constructor
  · rintro ⟨r, h⟩
    simp only [beginCycle] at h
    split at h
    · next hchange => exact .inl (changesEndpointWhileBusy_iff.1 hchange)
    · split at h
      · next hoffer => exact .inr (offersByteAfterEos_iff.1 hoffer)
      · cases h
  · rintro (hchange | hoffer)
    · exact ⟨.endpointChangedWhileBusy, if_pos (changesEndpointWhileBusy_iff.2 hchange)⟩
    · have hkept : ¬ ChangesEndpointWhileBusy s := fun hchange => absurd (hoffer.1.symm.trans hchange.1) nofun
      exact ⟨.byteAfterEndOfStream, (if_neg (mt changesEndpointWhileBusy_iff.1 hkept)).trans
        (if_pos (offersByteAfterEos_iff.2 hoffer))⟩

/-! ## The block itself refuses nothing -/

/-- An error of the receive side is not a refusal of the model. -/
theorem receiveError_ne_refused {e : ErrCode} {s : State} {r : Refusal} : receiveError e s ≠ .refused r := by
  unfold receiveError
  split <;> nofun

/-- A delivered packet is not refused, whether or not its header is of a row. -/
theorem deliver_ne_refused {s : State} {r : Refusal} : deliver s ≠ .refused r := by
  unfold deliver
  split
  · exact exec_not_refused
  · unfold receiveUnknown receiveUnexpected
    split <;> nofun

/-- What a taken byte leads to is not a refusal. -/
theorem afterByte_ne_refused {d : DesResult} {r : Refusal} : afterByte d ≠ .refused r := by
  cases d with
  | more s => nofun
  | complete s => exact deliver_ne_refused
  | raised e s => exact receiveError_ne_refused
  | fault f => nofun

/-- No event's effect is a refusal. -/
theorem runEvent_ne_refused {s : State} {r : Refusal} : runEvent s ≠ .refused r := by
  unfold runEvent
  cases eventOf s with
  | none => nofun
  | some ev =>
    cases ev with
    | reset => nofun
    | start => nofun
    | byte b => exact afterByte_ne_refused
    | eos => exact receiveError_ne_refused
    | tx e => exact exec_not_refused

/-- A step is refused exactly when its cycle does not begin. -/
theorem step_refused_iff {s : State} {r : Refusal} : step s = .refused r ↔ beginCycle s = .error r := by
  cases hb : beginCycle s with
  | error r' => simp only [step, hb, Host.Outcome.refused.injEq, Except.error.injEq]
  | ok s1 =>
    rw [step_of_begin hb]
    exact ⟨fun h => (runEvent_ne_refused h).elim, nofun⟩

end Sys2Proof.Machine

open Sys2Proof Sys2Proof.Machine

/-- Settles O43: reset is the cycle's event, its effect written out, and the opened cycle has no pulse and the old
outputs. -/
theorem stepResets : Obligations.StepResets := by
  intro s s1 hb hrst
  refine ⟨step_of_rst hb hrst, ?_⟩
  rw [beginCycle_ok hb]
  exact ⟨openCycle_epClosePulse _ s, openCycle_logPulse _ s, openCycle_trace _ s, openCycle_txOut _ s⟩

/-- Settles O46: the block refuses nothing, so a refusal is the cycle's, and a cycle is refused for a broken contract
only. -/
theorem stepRefusesBrokenContractsOnly : Obligations.StepRefusesBrokenContractsOnly := fun _ =>
  (exists_congr fun _ => step_refused_iff).trans beginCycle_error_iff
end
